-- ==== Sys2Proof/Word.lean ====
section
/-! DEFINITION. The words the part's frames and counters are made of. -/

namespace Sys2Proof

/-- A byte on a link or in a stored image (R202 to R210). -/
abbrev Byte := BitVec 8

/-- A counter: 32 bits wide, wrapping to 0 after 4,294,967,295 (00_scope.md, Conventions). -/
abbrev Counter := BitVec 32

/-- A character received on the Hammer Bus (R207): its eight data bits, its address mark, and whether
its framing was good (R183). -/
structure BusChar where
  byte   : Byte
  mark   : Bool
  framed : Bool
  deriving DecidableEq, Repr

end Sys2Proof
end

