-- ==== Sys2Proof/Config.lean ====
section
/-! DEFINITION. What the manual leaves open and the model leaves free. -/

namespace Sys2Proof

/-- The free value behind every choice of order that the manual leaves open ("may be taken in either
order"): the n-th draw. It has no body, so nothing can be proved of a particular draw (log 3, 5). -/
opaque Config.freeChoice : Nat → Nat

end Sys2Proof
end

