-- ==== Sys2Proof/Syntax.lean ====
section
/-! DEFINITION. The commands of the part: one constructor for each row of spec/opcode_table.json.

A request row carries the payload of its request frame as bytes (R203, R204); the command byte is
the constructor. -/

namespace Sys2Proof

/-- One event of the part, as the rows of the table list them. -/
inductive Instr where
  /-- R196: the straps BOARDS and LOAD and the input BELFRY, as read at the release of POR. -/
  | powerOnReset (boards : BitVec 3) (load belfry : Bool)
  /-- R199. -/
  | rstAsserted
  /-- R199: BELFRY is the input's value taken at the release. -/
  | rstReleased (belfry : Bool)
  /-- R196: the header bytes, or `none` where the memory did not acknowledge its address. -/
  | configHeaderRead (read : Option (List Byte))
  /-- R197: the section's bytes with its CRC, or `none` where the memory stopped acknowledging. -/
  | configSectionRead (read : Option (List Byte))
  /-- R6, R205: the nine bytes of a telegram whose last byte is received now. -/
  | telegram (bytes : List Byte)
  | telegramByteTimeout
  | mark
  | holdoverDeadline
  | slewIntervalEnd
  | pendingLoadWholeSecond
  | dayCountWrap
  | setTime (payload : List Byte)
  | snapshot (payload : List Byte)
  | readSnapshot (payload : List Byte)
  | readClock (payload : List Byte)
  | readBell (payload : List Byte)
  | setBell (payload : List Byte)
  | lockBell (payload : List Byte)
  | unlockBell (payload : List Byte)
  | restoreBell (payload : List Byte)
  /-- R67: the strike at this queue position reaches its fire instant. -/
  | strikeDue (position : Nat)
  /-- R70: the waiting strike at this queue position exceeds the late limit. -/
  | lateDiscard (position : Nat)
  | testStrike (payload : List Byte)
  | readQueue (payload : List Byte)
  | setQueue (payload : List Byte)
  /-- R180: the input's new value at the Hammer Bus Controller. -/
  | belfryAccessChange (asserted : Bool)
  /-- R71: the input's new value at the Strike Scheduler. -/
  | accessStateEvent (asserted : Bool)
  | sendCompletion
  | abortedFrameEnd
  | pollRound
  /-- R183: the characters received in the reply window. -/
  | pollWindowEnd (received : List BusChar)
  | busNoiseByte
  | expiry (bell : Nat)
  | maskEnd (bell : Nat)
  | settleEnd (bell : Nat)
  | claimDeadline (player : Nat)
  | playerWake (player : Nat)
  | playNow (payload : List Byte)
  | stopPlayerStop (payload : List Byte)
  | stopPlayerFinish (payload : List Byte)
  | readPlayer (payload : List Byte)
  | openTune (payload : List Byte)
  | writeTune (payload : List Byte)
  | closeTune (payload : List Byte)
  | eraseTune (payload : List Byte)
  | readTuneInfo (payload : List Byte)
  | readStore (payload : List Byte)
  | writeMap (payload : List Byte)
  | readMap (payload : List Byte)
  | launchInstant (entry : Nat)
  | writeEntry (payload : List Byte)
  | enableEntry (payload : List Byte)
  | disableEntry (payload : List Byte)
  | clearEntry (payload : List Byte)
  | readEntry (payload : List Byte)
  | setCalendar (payload : List Byte)
  | consoleOpen
  /-- R161, R205: the pitch and force bytes of the KEY frame. -/
  | consoleKey (pitch force : Byte)
  | consoleClose
  | alive
  | malformedConsoleFrame
  | player0Key
  | linkLoss
  | consoleReportSent
  | setConsole (payload : List Byte)
  | readConsole (payload : List Byte)
  | endConsoleEnd (payload : List Byte)
  | endConsoleCut (payload : List Byte)
  | setBus (payload : List Byte)
  | readBus (payload : List Byte)
  /-- R189: how many bytes, all of them the idle byte, were clocked in the transaction. -/
  | readTransaction (clocked : Nat)
  /-- R190: the bytes clocked in. -/
  | badFrameRequest (bytes : List Byte)
  /-- R191: a well-framed request whose command byte names no command. -/
  | unknownCommand (command : Byte) (payload : List Byte)
  | readNotices (payload : List Byte)
  | clearNotices (payload : List Byte)
  | setNoticeMask (payload : List Byte)
  | restart (payload : List Byte)
  | identify (payload : List Byte)
  /-- R206: a byte on the telegram input. -/
  | telegramByteReceived (byte : Byte)
  /-- R170, R206: a byte on the Console Link. -/
  | consoleLinkByte (byte : Byte)
  deriving DecidableEq, Repr

end Sys2Proof
end

