-- ==== Sys2Proof/Machine/State.lean ====
section
/-! DEFINITION. Everything the part holds, block by block, and its value at reset.

An absent optional field is `none`. Durations and instants are counts of eighths unless a name says
otherwise. A field that the manual computes from others is computed here too (health, occupancy,
queued counts, projected-free instants, READY, NOTICE). -/

namespace Sys2Proof.Machine

/-! ### Time Base (01_run_time_and_tower_time.md) -/

/-- R4. -/
inductive ClockState where
  | unset | holdover | locked
  deriving DecidableEq, Repr

/-- R2, without the phase, which appears in no operand and no report. -/
structure TowerTime where
  day     : Nat
  weekday : Nat
  ms      : Nat
  deriving DecidableEq, Repr

/-- R16, load status. -/
inductive LoadStatus where
  | noLoad | pendingLoad | loaded | discarded
  deriving DecidableEq, Repr

/-- R11, source of a step. -/
inductive StepSource where
  | mark | setTime
  deriving DecidableEq, Repr

/-- R14. -/
structure Snapshot where
  tower   : Option TowerTime
  runTime : Nat
  clock   : ClockState
  deriving DecidableEq, Repr

/-- R6, the accepted telegram with its arrival instant. -/
structure HeldTelegram where
  time    : TowerTime
  arrival : Nat
  deriving DecidableEq, Repr

structure TimeBase where
  /-- R1: 0 to 2^48 - 1. -/
  runTime      : Nat
  clock        : ClockState
  tower        : Option TowerTime
  phase        : Nat
  /-- R10: the correction still to be applied, in ms. -/
  slew         : Int
  slewStart    : Nat
  /-- R10, negative row: the next millisecond is withheld (log 14). -/
  withhold     : Bool
  /-- R1, R5: the instant of the last accepted mark. -/
  lastMark     : Option Nat
  held         : Option HeldTelegram
  /-- R206: the bytes of a begun telegram, and when the last of them came. -/
  rx           : List Byte
  rxLast       : Nat
  pendingLoad  : Option TowerTime
  /-- R13: the whole second that the pending load waits for has been reached (log 15). -/
  wholeSecond  : Bool
  loadStatus   : LoadStatus
  snapshot     : Option Snapshot
  lastOffset   : Option Int
  lastStep     : Option (Int × StepSource)
  /-- R154: the day count has run from 65,535 to 0 and the Calendar has not taken it (log 15). -/
  dayWrapped   : Bool
  telegrams    : Counter
  badTelegram  : Counter
  marks        : Counter
  orphanMark   : Counter
  steps        : Counter
  deriving DecidableEq, Repr

/-! ### Bell Table (02_the_bell_table.md) -/

/-- SOFT for force 1 to 8, LOUD for force 9 to 15. -/
inductive Band where
  | soft | loud
  deriving DecidableEq, Repr

/-- R25 to R28. -/
inductive Health where
  | ready | suspect | failed
  deriving DecidableEq, Repr

inductive FailureCause where
  | noFailure | misses | boardFault
  deriving DecidableEq, Repr

/-- R21: eight values and the slot the next accepted capture writes. -/
structure BandRing where
  values   : List Nat
  position : Nat
  deriving DecidableEq, Repr

/-- R18. Health is computed from the failure cause and the miss run. -/
structure Bell where
  present       : Bool
  placement     : Option (Nat × Nat)
  calibrated    : Bool
  floor         : Nat
  ceiling       : Nat
  depth         : Nat
  soft          : BandRing
  loud          : BandRing
  /-- the window fraction W -/
  window        : Nat
  /-- the mask fraction B -/
  mask          : Nat
  recovery      : Nat
  p1            : Nat
  p15           : Nat
  missLimit     : Nat
  missRun       : Nat
  cause         : FailureCause
  faultReported : Bool
  boardOnline   : Bool
  lockout       : Bool
  available     : Bool
  actuations    : Counter
  contacts      : Counter
  presumed      : Counter
  rejected      : Counter
  lateContacts  : Counter
  bounces       : Counter
  strays        : Counter
  lastContact   : Option Nat
  deriving DecidableEq, Repr

/-- R21: a seed in all eight slots. -/
def BandRing.seed (v : Nat) : BandRing := { values := List.replicate 8 v, position := 0 }

/-- R20, the default placement of bell n. -/
def defaultPlacement (n : Nat) : Nat × Nat := (n / 8 + 1, n % 8)

/-- R35, the default record with the placement and presence given. -/
def Bell.default (present : Bool) (placement : Option (Nat × Nat)) : Bell where
  present := present
  placement := placement
  calibrated := false
  floor := 80
  ceiling := 2400
  depth := 4
  soft := .seed 800
  loud := .seed 400
  window := 192
  mask := 32
  recovery := 800
  p1 := 16
  p15 := 96
  missLimit := 3
  missRun := 0
  cause := .noFailure
  faultReported := false
  boardOnline := false
  lockout := false
  available := false
  actuations := 0
  contacts := 0
  presumed := 0
  rejected := 0
  lateContacts := 0
  bounces := 0
  strays := 0
  lastContact := none

/-! ### Hammer Cycle (03_the_hammer_cycle.md) -/

/-- R36. -/
inductive HammerState where
  | idle | ordered | drive | mask | settle
  deriving DecidableEq, Repr

structure Hammer where
  state      : HammerState
  band       : Option Band
  send       : Option Nat
  expiry     : Option Nat
  contact    : Option Nat
  presumed   : Bool
  missBefore : Option Nat
  timerEnd   : Option Nat
  deriving DecidableEq, Repr

/-- A hammer at rest, with the band it keeps for reading (R39, R54). -/
def Hammer.rest (band : Option Band) : Hammer :=
  { state := .idle, band := band, send := none, expiry := none, contact := none, presumed := false,
    missBefore := none, timerEnd := none }

/-- R55: SETTLE with no field but its settle end. -/
def Hammer.settling (settleEnd : Nat) : Hammer :=
  { Hammer.rest none with state := .settle, timerEnd := some settleEnd }

/-! ### Strike Scheduler (04_the_strike_queue.md) -/

/-- R56. -/
inductive Origin where
  | tune | toll | console | test
  deriving DecidableEq, Repr

inductive StrikeState where
  | queued | due
  deriving DecidableEq, Repr

structure Strike where
  bell         : Nat
  force        : Nat
  band         : Band
  sounding     : Nat
  fire         : Nat
  origin       : Origin
  player       : Option Nat
  /-- pass number and record index -/
  tunePosition : Option (Nat × Nat)
  deferral     : Nat
  admittedLate : Nat
  clear        : Nat
  state        : StrikeState
  deriving DecidableEq, Repr

/-- The five ways a strike leaves the queue (R75, R76). -/
inductive Way where
  | fired | withdrawn | late | blocked | unavailable
  deriving DecidableEq, Repr

structure Scheduler where
  queue       : List Strike
  /-- R58: the quotas of players 1 to 7. -/
  quotas      : List Nat
  horizon     : Nat
  lateLimit   : Nat
  /-- R71: the Scheduler's own access state. -/
  access      : Bool
  admitted    : Counter
  fired       : Counter
  withdrawn   : Counter
  discardedLate        : Counter
  discardedBlocked     : Counter
  discardedUnavailable : Counter
  deriving DecidableEq, Repr

/-! ### Claim Arbiter (05_bell_claims.md) -/

inductive ClaimKind where
  | whole | partialClaim
  deriving DecidableEq, Repr

/-- R82. -/
inductive ClaimState where
  | noClaim | pendingClaim | granted | partGranted
  deriving DecidableEq, Repr

/-- R84: what a claim request carries, kept for reading after the claim ends. -/
structure ClaimBody where
  /-- in rising order, each bell once -/
  bells      : List Nat
  kind       : ClaimKind
  priority   : Nat
  preemptive : Bool
  /-- in seconds; absent for PARTIAL -/
  waitLimit  : Option Nat
  deriving DecidableEq, Repr

structure ClaimRecord where
  body         : Option ClaimBody
  deadline     : Option Nat
  claimInstant : Option Nat
  grantInstant : Option Nat
  state        : ClaimState
  deriving DecidableEq, Repr

structure Claims where
  /-- R81: the holder of each bell. -/
  holders  : List (Option Nat)
  /-- R81: the pending set of each bell, in rising order, each player once. -/
  waiting  : List (List Nat)
  records  : List ClaimRecord
  /-- R83. -/
  rotation : List Nat
  deriving DecidableEq, Repr

def ClaimRecord.fresh : ClaimRecord :=
  { body := none, deadline := none, claimInstant := none, grantInstant := none, state := .noClaim }

/-- R101: the Claim Arbiter after either reset. -/
def Claims.fresh : Claims :=
  { holders := List.replicate 56 none, waiting := List.replicate 56 [],
    records := List.replicate 8 ClaimRecord.fresh, rotation := [1, 2, 3, 4, 5, 6, 7, 0] }

/-! ### Player Bank (06_the_player_bank.md) -/

inductive MapId where
  | a | b
  deriving DecidableEq, Repr

inductive Policy where
  | defer | drop
  deriving DecidableEq, Repr

inductive PlayerState where
  | free | claiming | playing | draining
  deriving DecidableEq, Repr

inductive Mode where
  | single | repeated | toll | live
  deriving DecidableEq, Repr

inductive Launcher where
  | entry (n : Nat)
  | playNow
  | console
  deriving DecidableEq, Repr

inductive Generation where
  | running | stalled | done
  deriving DecidableEq, Repr

inductive StallReason where
  | horizon | quota | cap
  deriving DecidableEq, Repr

/-- How a performance, a session or an occurrence ended (R117, R145, R164). -/
inductive Fate where
  | completed | completedPartial | linkLost | stopped | preempted | claimTimeout | reset
  | noPlayer | noTune | overlap | missed
  deriving DecidableEq, Repr

/-- R164: the close cause of a session. Player 0's own (R102) is never `cut`. -/
inductive CloseCause where
  | close | endConsole | linkLost | cut
  deriving DecidableEq, Repr

/-- R102, the toll fields; the interval is in ms. -/
structure Toll where
  bell     : Nat
  strokes  : Nat
  interval : Nat
  force    : Nat
  deriving DecidableEq, Repr

/-- R102: the fields of a performance, written at its launch (R103). -/
structure Performance where
  origin          : Launcher
  mode            : Mode
  slot            : Option Nat
  map             : Option MapId
  transposition   : Int
  forceOffset     : Int
  tickPeriod      : Option Nat
  passesRemaining : Nat
  passNumber      : Counter
  recordIndex     : Nat
  tickPosition    : Nat
  toll            : Option Toll
  strokeIndex     : Nat
  anchor          : Option Nat
  nextSounding    : Option Nat
  claimKind       : ClaimKind
  priority        : Nat
  preemptive      : Bool
  waitLimit       : Option Nat
  policy          : Policy
  /-- in ms -/
  slack           : Nat
  deriving DecidableEq, Repr

structure Player where
  state       : PlayerState
  generation  : Generation
  stallReason : Option StallReason
  wake        : Option Nat
  perf        : Option Performance
  noticeOnEnd : Bool
  finish      : Bool
  closeCause  : Option CloseCause
  lateStart   : Bool
  lost        : Bool
  recordsRead        : Counter
  admitted           : Counter
  deferred           : Counter
  muted              : Counter
  refusedRecovery    : Counter
  refusedLate        : Counter
  refusedUnavailable : Counter
  refusedFull        : Counter
  lastOutcome : Option Fate
  deriving DecidableEq, Repr

/-- R124: a player after power-on reset. Notice on end is taken as one of the flags that are no (the
model's choice, log 48). -/
def Player.fresh : Player where
  state := .free
  generation := .done
  stallReason := none
  wake := none
  perf := none
  noticeOnEnd := false
  finish := false
  closeCause := none
  lateStart := false
  lost := false
  recordsRead := 0
  admitted := 0
  deferred := 0
  muted := 0
  refusedRecovery := 0
  refusedLate := 0
  refusedUnavailable := 0
  refusedFull := 0
  lastOutcome := none

/-! ### Tune Store and Bell Maps (07_tunes_and_bell_maps.md) -/

/-- The note record positions: byte k of position p is at address 3p + k (R126, R209). In canonical
form: addresses strictly rising, no entry equal to what an unlisted address reads as. -/
abbrev Memory := List Host.Cell

/-- What a byte of a record position that nothing has written reads as (log 27). -/
def unlisted : Byte := 0

/-- The canonical form. -/
def Memory.wf : Memory → Bool
  | [] => true
  | [c] => c.2 != unlisted
  | c :: d :: rest => c.2 != unlisted && decide (c.1 < d.1) && Memory.wf (d :: rest)

inductive SlotState where
  | empty | writing | ready
  deriving DecidableEq, Repr

/-- R127. -/
structure Slot where
  state    : SlotState
  length   : Option Nat
  /-- the default tempo M and N -/
  tempo    : Option (Nat × Nat)
  passGap  : Option Nat
  blocks   : List Nat
  written  : Option Nat
  /-- in rising order, each pitch once -/
  pitches  : Option (List Nat)
  ticks    : Option Nat
  crc      : Option (BitVec 16)
  users    : Nat
  deriving DecidableEq, Repr

def Slot.emptySlot : Slot :=
  { state := .empty, length := none, tempo := none, passGap := none, blocks := [], written := none,
    pitches := none, ticks := none, crc := none, users := 0 }

/-- R138. -/
structure MapEntry where
  primary   : Option Nat
  alternate : Option Nat
  deriving DecidableEq, Repr

/-! ### Performance Calendar (08_the_performance_calendar.md) -/

inductive EntryKind where
  | tune | toll
  deriving DecidableEq, Repr

inductive RecurrenceKind where
  | once | daily | hourly
  deriving DecidableEq, Repr

/-- R144: the recurrence with all its time fields. -/
structure Recurrence where
  kind      : RecurrenceKind
  day       : Nat
  mask      : Nat
  hour      : Nat
  minute    : Nat
  second    : Nat
  firstHour : Nat
  lastHour  : Nat
  deriving DecidableEq, Repr

/-- The fields of R143 from the tune slot to the slack, which PLAY-NOW carries too (R122). -/
structure PerfFields where
  slot          : Nat
  map           : MapId
  transposition : Int
  /-- M, absent for DEFAULT -/
  tempoM        : Option Nat
  tempoN        : Nat
  repeatCount   : Nat
  forceOffset   : Int
  tollBell      : Nat
  /-- absent for HOUR12 -/
  strokes       : Option Nat
  interval      : Nat
  tollForce     : Nat
  priority      : Nat
  preemptive    : Bool
  claimKind     : ClaimKind
  waitLimit     : Nat
  policy        : Policy
  slack         : Nat
  deriving DecidableEq, Repr

structure EntryFields where
  kind       : EntryKind
  recurrence : Recurrence
  /-- absent for ANY -/
  player     : Option Nat
  perf       : PerfFields
  notice     : Bool
  deriving DecidableEq, Repr

/-- R144: a Tower Time named by a day count and a day-ms. -/
structure Trigger where
  day : Nat
  ms  : Nat
  deriving DecidableEq, Repr

/-- R143, R145: `fields` is absent while the entry is cleared. -/
structure Entry where
  fields      : Option EntryFields
  enabled     : Bool
  next        : Option Trigger
  lastFired   : Option Trigger
  active      : Option Nat
  lastOutcome : Option Fate
  launched    : Counter
  missed      : Counter
  overlap     : Counter
  refused     : Counter
  deriving DecidableEq, Repr

def Entry.cleared : Entry :=
  { fields := none, enabled := false, next := none, lastFired := none, active := none,
    lastOutcome := none, launched := 0, missed := 0, overlap := 0, refused := 0 }

structure Calendar where
  entries : List Entry
  /-- ms -/
  preRoll : Nat
  /-- s -/
  catchUp : Nat
  /-- ms -/
  margin  : Nat
  deriving DecidableEq, Repr

/-! ### Console Interface (09_the_console_session.md) -/

inductive ConsoleKind where
  | openSession | key (pitch force : Nat) | close
  deriving DecidableEq, Repr

/-- R162. -/
structure ConsoleEvent where
  kind    : ConsoleKind
  arrival : Nat
  deriving DecidableEq, Repr

inductive SessionState where
  | off | live | closing
  deriving DecidableEq, Repr

inductive Latency where
  | equal | direct
  deriving DecidableEq, Repr

/-- R172. -/
inductive Lamp where
  | lost | held
  deriving DecidableEq, Repr

/-- R173, R205: the reports sent to the console. -/
inductive Report where
  | refused
  | session (state : SessionState) (outcome : Option Fate)
  | lamp (pitch : Nat) (value : Lamp)
  deriving DecidableEq, Repr

/-- R174. -/
structure ConsoleSettings where
  enable     : Bool
  priority   : Nat
  preemptive : Bool
  latency    : Latency
  /-- ms -/
  delay      : Nat
  /-- ms -/
  slack      : Nat
  map        : MapId
  hold       : Nat
  resume     : Nat
  deriving DecidableEq, Repr

structure Console where
  fifo          : List ConsoleEvent
  inFlight      : Bool
  hold          : Bool
  session       : SessionState
  closeCause    : Option CloseCause
  openInstant   : Option Nat
  lastOutcome   : Option Fate
  /-- R170: the instant of the last byte received on the Console Link. -/
  lastByte      : Option Nat
  /-- R206: the bytes of a frame begun and not complete. -/
  rx            : List Byte
  /-- R206: the present run of bytes with no frame begun has been counted. -/
  strayRun      : Bool
  lamps         : List Lamp
  sentLamps     : List Lamp
  refusedOwed   : Bool
  /-- R173: the state and outcome that the last STATE report sent carried. -/
  sentState     : Option (SessionState × Option Fate)
  sending       : Option Report
  settings      : ConsoleSettings
  events        : Counter
  malformed     : Counter
  overrun       : Counter
  ignoredKey    : Counter
  openRefused   : Counter
  linkLost      : Counter
  sessions      : Counter
  deriving DecidableEq, Repr

/-- R174, defaults. -/
def ConsoleSettings.default : ConsoleSettings :=
  { enable := true, priority := 2, preemptive := false, latency := .equal, delay := 300,
    slack := 100, map := .a, hold := 48, resume := 16 }

/-- R176: the Console Interface after power-on reset. The owed STATE OFF report is begun at once,
the transmitter being idle (R173, log 32). -/
def Console.fresh : Console where
  fifo := []
  inFlight := false
  hold := false
  session := .off
  closeCause := none
  openInstant := none
  lastOutcome := none
  lastByte := none
  rx := []
  strayRun := false
  lamps := List.replicate 96 .lost
  sentLamps := List.replicate 96 .lost
  refusedOwed := false
  sentState := none
  sending := some (.session .off none)
  settings := .default
  events := 0
  malformed := 0
  overrun := 0
  ignoredKey := 0
  openRefused := 0
  linkLost := 0
  sessions := 0

/-! ### Hammer Bus Controller (10_the_hammer_bus.md) -/

/-- R178. -/
structure Order where
  bell   : Nat
  board  : Nat
  hammer : Nat
  pulse  : Nat
  band   : Band
  fire   : Nat
  onLine : Bool
  deriving DecidableEq, Repr

/-- R177: what is on the line, and the instant its time ends. `cut` is an ACTUATE whose order was
cancelled, the rest of its eighth carrying the abort pattern (R179). -/
inductive Line where
  | idle
  | actuate (bell : Nat) (ends : Nat) (cut : Bool)
  | poll (board : Nat) (ends : Nat)
  deriving DecidableEq, Repr

/-- R185. -/
structure Board where
  online          : Bool
  missedRun       : Nat
  replyRun        : Nat
  faults          : Byte
  validReplies    : Counter
  noReply         : Counter
  badReply        : Counter
  reports         : Counter
  unplacedReports : Counter
  overflow        : Counter
  wentOffline     : Counter
  deriving DecidableEq, Repr

def Board.fresh : Board :=
  { online := false, missedRun := 0, replyRun := 0, faults := 0, validReplies := 0, noReply := 0,
    badReply := 0, reports := 0, unplacedReports := 0, overflow := 0, wentOffline := 0 }

structure Bus where
  sendList    : List Order
  line        : Line
  /-- R182: ACTUATE frames sent since the last POLL started. -/
  consecutive : Nat
  /-- R181: the waiting-poll flags of boards 1 to 7. -/
  waitingPoll : List Bool
  pointer     : Nat
  /-- R181: the Run Time at which the next poll round begins. -/
  nextRound   : Nat
  /-- R180: the Controller's access state. -/
  access      : Bool
  boards      : List Board
  allowance   : Nat
  actuatesSent         : Counter
  pollsSent            : Counter
  pollsOvertaken       : Counter
  cancelledAccess      : Counter
  cancelledOffline     : Counter
  cancelledUnavailable : Counter
  noise                : Counter
  deriving DecidableEq, Repr

/-! ### Schedule Port (11_the_schedule_port_and_start_up.md) -/

/-- R191, in the order of the codes of R203. -/
inductive Status where
  | ok | badFrame | unknownCommand | badOperand | inUse | noSpace | notActive | outOfSequence
  | badContent | clockOwnsTime | ignored | empty | noTune | noPlayer | unavailable | starting
  deriving DecidableEq, Repr

structure Response where
  status  : Status
  payload : List Byte
  deriving DecidableEq, Repr

/-- R193, in the order of the bits of R204. -/
inductive Notice where
  | perfEnd | preempted | claimTimeout | bellFailed | boardOffline | boardOnline | clockState
  | clockStep | queueFull | consoleSession | access | calendarMissed | configError
  deriving DecidableEq, Repr

inductive HeaderResult where
  | notRead | good | badHeader | noMemory
  deriving DecidableEq, Repr

inductive SectionResult where
  | notRead | loaded | loadedWithErrors | defaults
  deriving DecidableEq, Repr

inductive ResetCause where
  | powerOn | line | command
  deriving DecidableEq, Repr

structure Port where
  response     : Option Response
  /-- R193: one pending flag and one enabled flag per kind, bit n for the kind of bit n in R204. -/
  pendingFlags : BitVec 13
  enabled      : BitVec 13
  raises       : List Counter
  /-- R192: the start-up status is LOADING. -/
  loading      : Bool
  boards       : Nat
  load         : Bool
  header       : HeaderResult
  /-- R196, R210: offset and length of each section, after a GOOD header. -/
  directory    : List (Nat × Nat)
  nextSection  : Nat
  /-- R200: for each section its result and its rejected-item count. -/
  sections     : List (SectionResult × Nat)
  lastCause    : ResetCause
  warmResets   : Counter
  requests     : Counter
  badFrames    : Counter
  discarded    : Counter
  deriving DecidableEq, Repr

/-- R199: the RST line. `deferred` is a warm reset that waits for the end of the load. -/
structure ResetLine where
  asserted : Bool
  held     : Bool
  deferred : Bool
  deriving DecidableEq, Repr

/-! ### Events handed between blocks -/

/-- An event that one block has handed to another within the present step and that has not been taken
yet (log 6). -/
inductive Msg where
  /-- R75: the player whose strike left, the way it left, the player's queued count and the tune total
  after it. -/
  | removal (player : Nat) (way : Way) (queued tuneTotal : Nat)
  /-- R48. -/
  | hammerFree (bell : Nat)
  /-- R98, R106: a grant event for the player. -/
  | grant (player : Nat)
  /-- R108: the player takes, or goes on with, a generation decision. -/
  | decide (player : Nat)
  /-- R99: player 0's holding of the bell has changed. -/
  | holding (bell : Nat)
  /-- R166, R167: the head of the Console FIFO is considered (a room event among others). -/
  | considerHead
  /-- R171. -/
  | consoleEnd (outcome : Fate)
  /-- R149. -/
  | calendarEnd (entry player : Nat) (outcome : Fate)
  /-- R147: an occurrence whose launch instant was reached when it was computed. -/
  | occurrence (entry : Nat)
  /-- R151: the latest skipped occurrence of an entry, to be taken late. -/
  | caughtUp (entry : Nat) (trigger : Trigger)
  deriving DecidableEq, Repr

/-! ### The whole -/

/-- The blocks that act on one another within a step. -/
structure Body where
  hammers : List Hammer
  sched   : Scheduler
  claims  : Claims
  players : List Player
  slots   : List Slot
  cal     : Calendar
  con     : Console
  bus     : Bus
  port    : Port
  /-- The model's own: events handed on and not yet taken; empty between steps (log 6). -/
  mail    : List Msg
  /-- The model's own: how many free values have been drawn (log 3). -/
  draws   : Nat
  deriving DecidableEq, Repr

/-- The part. The Time Base, the note records, the bell records and the Bell Maps stand outside `Body`
because the events that the blocks of `Body` hand one another only read them. -/
structure State where
  time    : TimeBase
  memory  : Memory
  bells   : List Bell
  mapA    : List MapEntry
  mapB    : List MapEntry
  rst     : ResetLine
  /-- R180, R188: the level of the BELFRY input, asserted or not. The two access states are the blocks' own. -/
  belfry  : Bool
  body    : Body
  /-- The commands that are waiting, first in, first out. -/
  pending : List Instr
  deriving DecidableEq, Repr

/-- A fault stops the part. The manual names none: what goes wrong is answered with a status or
recorded in a block (log 37), so the type has no reason to list. -/
inductive Fault where
  deriving DecidableEq, Repr

/-- A command without a meaning. -/
inductive Refusal where
  /-- Raised by an arm of `exec` whose command has no meaning yet; no arm does. Safe: the part stops. -/
  | notModelled (mnemonic : String)
  deriving DecidableEq, Repr

/-! ### Reset -/

/-- R17: the Time Base after power-on reset. -/
def TimeBase.fresh : TimeBase where
  runTime := 0
  clock := .unset
  tower := none
  phase := 0
  slew := 0
  slewStart := 0
  withhold := false
  lastMark := none
  held := none
  rx := []
  rxLast := 0
  pendingLoad := none
  wholeSecond := false
  loadStatus := .noLoad
  snapshot := none
  lastOffset := none
  lastStep := none
  dayWrapped := false
  telegrams := 0
  badTelegram := 0
  marks := 0
  orphanMark := 0
  steps := 0

/-- R80. -/
def Scheduler.fresh (access : Bool) : Scheduler :=
  { queue := [], quotas := List.replicate 7 64, horizon := 12000, lateLimit := 320, access := access,
    admitted := 0, fired := 0, withdrawn := 0, discardedLate := 0, discardedBlocked := 0,
    discardedUnavailable := 0 }

/-- R188. -/
def Bus.fresh (boards : Nat) (access : Bool) : Bus :=
  { sendList := [], line := .idle, consecutive := 0, waitingPoll := List.replicate 7 false,
    pointer := boards, nextRound := 0, access := access, boards := List.replicate 7 Board.fresh,
    allowance := 80, actuatesSent := 0, pollsSent := 0, pollsOvertaken := 0, cancelledAccess := 0,
    cancelledOffline := 0, cancelledUnavailable := 0, noise := 0 }

/-- R195, R196, R201: with LOAD clear the load ends in the event of the release of POR, and its results are
NOT-READ. With LOAD set R201 says only that the load sets them: that they are NOT-READ with count 0, with no
directory and BELLS as the next section, until it does is the model's choice (log 58). -/
def Port.fresh (boards : Nat) (load : Bool) : Port :=
  { response := none, pendingFlags := 0, enabled := BitVec.allOnes 13,
    raises := List.replicate 13 0, loading := load, boards := boards, load := load,
    header := .notRead, directory := [], nextSection := 0,
    sections := List.replicate 4 (.notRead, 0), lastCause := .powerOn, warmResets := 0,
    requests := 0, badFrames := 0, discarded := 0 }

/-- R159. -/
def Calendar.fresh : Calendar :=
  { entries := List.replicate 48 Entry.cleared, preRoll := 2000, catchUp := 300, margin := 500 }

/-- R19: the count set by the BOARDS strap, a value of 0 being taken as 1. -/
def boardCount (strap : BitVec 3) : Nat := if strap = 0 then 1 else strap.toNat

/-- R196: the part at the release of POR, with the straps and the BELFRY input as read. -/
def State.powerOn (strap : BitVec 3) (load belfry : Bool) : State where
  time := .fresh
  memory := []
  bells := (List.range 56).map fun n =>
    Bell.default (decide (n < 8 * boardCount strap)) (some (defaultPlacement n))
  mapA := List.replicate 96 { primary := none, alternate := none }
  mapB := List.replicate 96 { primary := none, alternate := none }
  rst := { asserted := false, held := false, deferred := false }
  belfry := belfry
  body :=
    { hammers := List.replicate 56 (Hammer.rest none)
      sched := .fresh belfry
      claims := .fresh
      players := List.replicate 8 Player.fresh
      slots := List.replicate 64 Slot.emptySlot
      cal := .fresh
      con := .fresh
      bus := .fresh (boardCount strap) belfry
      port := .fresh (boardCount strap) load
      mail := []
      draws := 0 }
  pending := []

/-- The part right after power-on reset, every input of the reset at 0 (log 1). -/
def State.reset : State := State.powerOn 0 false false

end Sys2Proof.Machine
end

