-- ==== Sys2Proof/Machine/Operands.lean ====
section
/-! DEFINITION. The byte forms of 12_frame_and_record_formats.md: checks, the encodings of operands and
response items (R202 to R206, R209), and the reading of payloads. -/

namespace Sys2Proof.Machine

/-! ### Checks (R202, R205, R206) -/

/-- One bit of the register: shift, and the polynomial x^16 + x^12 + x^5 + 1 where a 1 falls out. -/
def crcBit (c : BitVec 16) : BitVec 16 :=
  if c.msb then (c <<< 1) ^^^ 0x1021#16 else c <<< 1

def crcByte (c : BitVec 16) (x : Byte) : BitVec 16 :=
  crcBit (crcBit (crcBit (crcBit (crcBit (crcBit (crcBit (crcBit
    (c ^^^ (x.zeroExtend 16 <<< 8)))))))))

/-- R202: the CRC-16 of bytes taken in order. -/
def crc16 (bytes : List Byte) : BitVec 16 := bytes.foldl crcByte 0xFFFF#16

/-- R206: the check byte of a console frame. -/
def consoleCheck (bytes : List Byte) : Byte := (bytes.foldl (· ^^^ ·) 0#8) &&& 0x7F#8

/-! ### Numbers, most significant byte first -/

def u8 (n : Nat) : List Byte := [BitVec.ofNat 8 n]

def u16 (n : Nat) : List Byte := [BitVec.ofNat 8 (n / 256), BitVec.ofNat 8 n]

def u32 (n : Nat) : List Byte := u16 (n / 65536) ++ u16 (n % 65536)

/-- Six bytes: a Run Time. -/
def u48 (n : Nat) : List Byte := u16 (n / 4294967296) ++ u32 (n % 4294967296)

/-- A signed millisecond value: six bytes, two's complement. -/
def s48 (i : Int) : List Byte := u48 (BitVec.ofInt 48 i).toNat

/-- A signed number: one byte, two's complement. -/
def s8 (i : Int) : List Byte := [BitVec.ofInt 8 i]

def word16 (w : BitVec 16) : List Byte := u16 w.toNat

def counter (c : Counter) : List Byte := u32 c.toNat

/-- "yes or no" is a named choice, numbered in that order (log 9). -/
def yesNo (x : Bool) : List Byte := if x then u8 0 else u8 1

/-- An absent item is a presence byte of 0 alone; a present one a presence byte of 1 and its value. -/
def optional {α : Type} (enc : α → List Byte) : Option α → List Byte
  | none => u8 0
  | some x => u8 1 ++ enc x

/-- A bell that may be NONE. -/
def bellOrNone : Option Nat → List Byte
  | none => u8 255
  | some n => u8 n

/-- A placement: board 0 for NONE. -/
def placementBytes : Option (Nat × Nat) → List Byte
  | none => u8 0 ++ u8 0
  | some (board, hammer) => u8 board ++ u8 hammer

/-- A set of members numbered from 0: member n is bit (n mod 8) of byte (n / 8), in this many bytes. -/
def setBytes (bytes : Nat) (has : Nat → Bool) : List Byte :=
  (List.range bytes).map fun k =>
    BitVec.ofNat 8 (((List.range 8).map fun j => if has (8 * k + j) then 2 ^ j else 0).sum)

/-- A list of byte-sized members: a count byte, then the members. -/
def listBytes (l : List Nat) : List Byte := u8 l.length ++ l.flatMap u8

/-- A set of notice kinds. -/
def noticeBytes (w : BitVec 13) : List Byte := u16 w.toNat

/-- R204: day count, weekday, day-ms. -/
def towerBytes (t : TowerTime) : List Byte := u16 t.day ++ u8 t.weekday ++ u32 t.ms

/-- A trigger: day count and day-ms (log 10). -/
def triggerBytes (t : Trigger) : List Byte := u16 t.day ++ u32 t.ms

/-! ### Named choices, numbered from 0 in the order their chapter lists them -/

def ClockState.code : ClockState → Nat
  | .unset => 0 | .holdover => 1 | .locked => 2

def LoadStatus.code : LoadStatus → Nat
  | .noLoad => 0 | .pendingLoad => 1 | .loaded => 2 | .discarded => 3

def StepSource.code : StepSource → Nat
  | .mark => 0 | .setTime => 1

def Band.code : Band → Nat
  | .soft => 0 | .loud => 1

def Health.code : Health → Nat
  | .ready => 0 | .suspect => 1 | .failed => 2

def FailureCause.code : FailureCause → Nat
  | .noFailure => 0 | .misses => 1 | .boardFault => 2

def HammerState.code : HammerState → Nat
  | .idle => 0 | .ordered => 1 | .drive => 2 | .mask => 3 | .settle => 4

def Origin.code : Origin → Nat
  | .tune => 0 | .toll => 1 | .console => 2 | .test => 3

def StrikeState.code : StrikeState → Nat
  | .queued => 0 | .due => 1

def ClaimKind.code : ClaimKind → Nat
  | .whole => 0 | .partialClaim => 1

def ClaimState.code : ClaimState → Nat
  | .noClaim => 0 | .pendingClaim => 1 | .granted => 2 | .partGranted => 3

def MapId.code : MapId → Nat
  | .a => 0 | .b => 1

def Policy.code : Policy → Nat
  | .defer => 0 | .drop => 1

def PlayerState.code : PlayerState → Nat
  | .free => 0 | .claiming => 1 | .playing => 2 | .draining => 3

def Mode.code : Mode → Nat
  | .single => 0 | .repeated => 1 | .toll => 2 | .live => 3

/-- "a calendar entry 0 to 47, PLAY-NOW or CONSOLE" (log 10). -/
def Launcher.code : Launcher → Nat
  | .entry n => n | .playNow => 48 | .console => 49

def Generation.code : Generation → Nat
  | .running => 0 | .stalled => 1 | .done => 2

def StallReason.code : StallReason → Nat
  | .horizon => 0 | .quota => 1 | .cap => 2

/-- The outcomes of a player in the order of R117; the last four are no player's. -/
def Fate.playerCode : Fate → Nat
  | .completed => 0 | .completedPartial => 1 | .linkLost => 2 | .stopped => 3 | .preempted => 4
  | .claimTimeout => 5 | .reset => 6 | .noPlayer => 7 | .noTune => 8 | .overlap => 9 | .missed => 10

/-- The outcomes of an entry in the order of R145; LINK-LOST is no entry's. -/
def Fate.entryCode : Fate → Nat
  | .completed => 0 | .completedPartial => 1 | .stopped => 2 | .preempted => 3 | .claimTimeout => 4
  | .noPlayer => 5 | .noTune => 6 | .overlap => 7 | .missed => 8 | .reset => 9 | .linkLost => 10

/-- The outcomes of a session in the order of R164; the others are no session's. -/
def Fate.sessionCode : Fate → Nat
  | .completed => 0 | .completedPartial => 1 | .linkLost => 2 | .stopped => 3 | .reset => 4
  | .preempted => 5 | .claimTimeout => 6 | .noPlayer => 7 | .noTune => 8 | .overlap => 9
  | .missed => 10

def CloseCause.code : CloseCause → Nat
  | .close => 0 | .endConsole => 1 | .linkLost => 2 | .cut => 3

def SlotState.code : SlotState → Nat
  | .empty => 0 | .writing => 1 | .ready => 2

def EntryKind.code : EntryKind → Nat
  | .tune => 0 | .toll => 1

def RecurrenceKind.code : RecurrenceKind → Nat
  | .once => 0 | .daily => 1 | .hourly => 2

def SessionState.code : SessionState → Nat
  | .off => 0 | .live => 1 | .closing => 2

def Latency.code : Latency → Nat
  | .equal => 0 | .direct => 1

/-- R204: a lamp value is 1 for HELD and 0 for LOST. -/
def Lamp.code : Lamp → Nat
  | .lost => 0 | .held => 1

/-- R203, status codes. -/
def Status.code : Status → Nat
  | .ok => 0 | .badFrame => 1 | .unknownCommand => 2 | .badOperand => 3 | .inUse => 4
  | .noSpace => 5 | .notActive => 6 | .outOfSequence => 7 | .badContent => 8 | .clockOwnsTime => 9
  | .ignored => 10 | .empty => 11 | .noTune => 12 | .noPlayer => 13 | .unavailable => 14
  | .starting => 15

def HeaderResult.code : HeaderResult → Nat
  | .notRead => 0 | .good => 1 | .badHeader => 2 | .noMemory => 3

def SectionResult.code : SectionResult → Nat
  | .notRead => 0 | .loaded => 1 | .loadedWithErrors => 2 | .defaults => 3

def ResetCause.code : ResetCause → Nat
  | .powerOn => 0 | .line => 1 | .command => 2

/-! ### Reading fields of a payload -/

def byteAt (p : List Byte) (i : Nat) : Nat := (p.getD i 0).toNat

def wordAt (p : List Byte) (i : Nat) : Nat := 256 * byteAt p i + byteAt p (i + 1)

def longAt (p : List Byte) (i : Nat) : Nat := 65536 * wordAt p i + wordAt p (i + 2)

/-- One byte, two's complement. -/
def signedAt (p : List Byte) (i : Nat) : Int := (p.getD i 0).toInt

/-- `some x` where the check holds; otherwise the operands are refused. -/
def check {α : Type} (ok : Bool) (x : α) : Option α := if ok then some x else none

def readYesNo (n : Nat) : Option Bool :=
  if n = 0 then some true else if n = 1 then some false else none

def readMapId (n : Nat) : Option MapId :=
  if n = 0 then some .a else if n = 1 then some .b else none

def readPolicy (n : Nat) : Option Policy :=
  if n = 0 then some .defer else if n = 1 then some .drop else none

def readClaimKind (n : Nat) : Option ClaimKind :=
  if n = 0 then some .whole else if n = 1 then some .partialClaim else none

def readEntryKind (n : Nat) : Option EntryKind :=
  if n = 0 then some .tune else if n = 1 then some .toll else none

def readRecurrenceKind (n : Nat) : Option RecurrenceKind :=
  if n = 0 then some .once else if n = 1 then some .daily else if n = 2 then some .hourly else none

def readLatency (n : Nat) : Option Latency :=
  if n = 0 then some .equal else if n = 1 then some .direct else none

/-- A bell that may be NONE: a number above 55 other than 255 is refused. -/
def readBellOrNone (n : Nat) : Option (Option Nat) :=
  if n = 255 then some none else if n ≤ 55 then some (some n) else none

/-- A placement: board 1 to 7 and hammer 0 to 7, or board 0 and hammer 0 for NONE. -/
def readPlacement (board hammer : Nat) : Option (Option (Nat × Nat)) :=
  if board = 0 then (if hammer = 0 then some none else none)
  else if board ≤ 7 ∧ hammer ≤ 7 then some (some (board, hammer)) else none

/-- A payload with no operands. -/
def parseNothing (p : List Byte) : Option Unit := check (p.length == 0) ()

/-- A payload of one byte not above a bound: a bell, a player, a slot, an entry. -/
def parseByte (bound : Nat) (p : List Byte) : Option Nat :=
  check (p.length == 1 && decide (byteAt p 0 ≤ bound)) (byteAt p 0)

/-! ### Operands of the commands, in the order their chapters list them -/

/-- R12. -/
def parseSetTime (p : List Byte) : Option TowerTime :=
  check (p.length == 7 && decide (byteAt p 2 ≤ 6) && decide (longAt p 3 ≤ 86399999))
    { day := wordAt p 0, weekday := byteAt p 2, ms := longAt p 3 }

/-- R18, R32: the calibration operands. -/
structure Calibration where
  placement : Option (Nat × Nat)
  floor     : Nat
  ceiling   : Nat
  depth     : Nat
  softSeed  : Nat
  loudSeed  : Nat
  window    : Nat
  mask      : Nat
  recovery  : Nat
  p1        : Nat
  p15       : Nat
  missLimit : Nat
  deriving DecidableEq, Repr

/-- The first three rows of the table of R32, over the eighteen bytes from placement to miss limit,
which the BELLS section carries in the same order (R210). -/
def parseCalibration (p : List Byte) (i : Nat) : Option Calibration :=
  (readPlacement (byteAt p i) (byteAt p (i + 1))).bind fun placement =>
  let c : Calibration :=
    { placement := placement, floor := wordAt p (i + 2), ceiling := wordAt p (i + 4),
      depth := byteAt p (i + 6), softSeed := wordAt p (i + 7), loudSeed := wordAt p (i + 9),
      window := byteAt p (i + 11), mask := byteAt p (i + 12), recovery := wordAt p (i + 13),
      p1 := byteAt p (i + 15), p15 := byteAt p (i + 16), missLimit := byteAt p (i + 17) }
  check
    (decide (40 ≤ c.floor ∧ c.floor ≤ 4000 ∧ 40 ≤ c.ceiling ∧ c.ceiling ≤ 4000) &&
     [1, 2, 4, 8].contains c.depth &&
     decide (128 ≤ c.window ∧ c.mask ≤ 127 ∧ c.recovery ≤ 8000 ∧ 1 ≤ c.p1 ∧ 1 ≤ c.p15 ∧
       1 ≤ c.missLimit ∧ c.missLimit ≤ 15) &&
     decide (c.floor < c.ceiling ∧ c.p1 ≤ c.p15) &&
     decide (c.floor ≤ c.softSeed ∧ c.softSeed ≤ c.ceiling ∧ c.floor ≤ c.loudSeed ∧
       c.loudSeed ≤ c.ceiling))
    c

/-- R32: bell number, then the calibration. -/
def parseSetBell (p : List Byte) : Option (Nat × Calibration) :=
  if p.length = 19 ∧ byteAt p 0 ≤ 55 then
    (parseCalibration p 1).map fun c => (byteAt p 0, c)
  else none

/-- R77. -/
def parseTestStrike (p : List Byte) : Option (Nat × Nat) :=
  check (p.length == 2 && decide (byteAt p 0 ≤ 55 ∧ 1 ≤ byteAt p 1 ∧ byteAt p 1 ≤ 15))
    (byteAt p 0, byteAt p 1)

/-- R79: seven quotas, the horizon and the late limit in ms. -/
def parseSetQueue (p : List Byte) : Option (List Nat × Nat × Nat) :=
  let quotas := (List.range 7).map (byteAt p)
  check
    (p.length == 11 && quotas.all (fun q => decide (8 ≤ q ∧ q ≤ 224)) &&
     decide (250 ≤ wordAt p 7 ∧ wordAt p 7 ≤ 4000 ∧ wordAt p 9 ≤ 500))
    (quotas, wordAt p 7, wordAt p 9)

/-- The fields of R143 from tune slot to slack, twenty bytes. Every field is checked whatever the kind
(log 12). Beside a tempo of DEFAULT the byte of N is checked and kept like any other N, which is the model's
choice (log 56). -/
def parsePerf (p : List Byte) (i : Nat) : Option PerfFields :=
  (readMapId (byteAt p (i + 1))).bind fun map =>
  (readYesNo (byteAt p (i + 13))).bind fun preemptive =>
  (readClaimKind (byteAt p (i + 14))).bind fun claimKind =>
  (readPolicy (byteAt p (i + 17))).bind fun policy =>
  let f : PerfFields :=
    { slot := byteAt p i, map := map, transposition := signedAt p (i + 2),
      tempoM := if byteAt p (i + 3) = 0 then none else some (byteAt p (i + 3)),
      tempoN := byteAt p (i + 4), repeatCount := byteAt p (i + 5),
      forceOffset := signedAt p (i + 6), tollBell := byteAt p (i + 7),
      strokes := if byteAt p (i + 8) = 0 then none else some (byteAt p (i + 8)),
      interval := wordAt p (i + 9), tollForce := byteAt p (i + 11),
      priority := byteAt p (i + 12), preemptive := preemptive, claimKind := claimKind,
      waitLimit := wordAt p (i + 15), policy := policy, slack := wordAt p (i + 18) }
  check
    (decide (f.slot ≤ 63 ∧ -24 ≤ f.transposition ∧ f.transposition ≤ 24 ∧ byteAt p (i + 3) ≤ 31 ∧
       f.tempoN ≤ 7 ∧ -7 ≤ f.forceOffset ∧ f.forceOffset ≤ 7) &&
     decide (f.tollBell ≤ 55 ∧ byteAt p (i + 8) ≤ 60 ∧ 500 ≤ f.interval ∧ f.interval ≤ 10000 ∧
       1 ≤ f.tollForce ∧ f.tollForce ≤ 15) &&
     decide (f.priority ≤ 7 ∧ f.waitLimit ≤ 600 ∧ f.slack ≤ 2000))
    f

/-- R144, R155: the recurrence byte and its time fields, nine bytes. A time field that the recurrence
does not use is not checked. -/
def parseRecurrence (p : List Byte) (i : Nat) : Option Recurrence :=
  (readRecurrenceKind (byteAt p i)).bind fun kind =>
  let r : Recurrence :=
    { kind := kind, day := wordAt p (i + 1), mask := byteAt p (i + 3), hour := byteAt p (i + 4),
      minute := byteAt p (i + 5), second := byteAt p (i + 6), firstHour := byteAt p (i + 7),
      lastHour := byteAt p (i + 8) }
  let maskOk := decide (1 ≤ r.mask ∧ r.mask ≤ 127)
  let timeOk := decide (r.minute ≤ 59 ∧ r.second ≤ 59)
  check
    (match kind with
     | .once => timeOk && decide (r.hour ≤ 23)
     | .daily => maskOk && timeOk && decide (r.hour ≤ 23)
     | .hourly => maskOk && timeOk && decide (r.firstHour ≤ r.lastHour ∧ r.lastHour ≤ 23))
    r

/-- R143: the fields of a written entry after the entry number, thirty-three bytes: enabled and the
rest. -/
def parseEntryFields (p : List Byte) (i : Nat) : Option (Bool × EntryFields) :=
  (readYesNo (byteAt p i)).bind fun enabled =>
  (readEntryKind (byteAt p (i + 1))).bind fun kind =>
  (parseRecurrence p (i + 2)).bind fun recurrence =>
  (parsePerf p (i + 12)).bind fun perf =>
  (readYesNo (byteAt p (i + 32))).bind fun notice =>
  check (decide (byteAt p (i + 11) ≤ 7))
    (enabled,
     { kind := kind, recurrence := recurrence,
       player := if byteAt p (i + 11) = 0 then none else some (byteAt p (i + 11)),
       perf := perf, notice := notice })

/-- R155. -/
def parseWriteEntry (p : List Byte) : Option (Nat × Bool × EntryFields) :=
  if p.length = 34 ∧ byteAt p 0 ≤ 47 then
    (parseEntryFields p 1).map fun f => (byteAt p 0, f)
  else none

/-- R122: player (0 for ANY), kind, then the fields from tune slot to slack (log 11). -/
def parsePlayNow (p : List Byte) : Option (Option Nat × EntryKind × PerfFields) :=
  if p.length = 22 ∧ byteAt p 0 ≤ 7 then
    (readEntryKind (byteAt p 1)).bind fun kind =>
    (parsePerf p 2).map fun f =>
      (if byteAt p 0 = 0 then none else some (byteAt p 0), kind, f)
  else none

/-- R119: the two variants of STOP-PLAYER. -/
inductive StopVariant where
  | stop | finish
  deriving DecidableEq, Repr

def parseStopPlayer (p : List Byte) : Option (Nat × StopVariant) :=
  if p.length = 2 ∧ 1 ≤ byteAt p 0 ∧ byteAt p 0 ≤ 7 then
    if byteAt p 1 = 0 then some (byteAt p 0, .stop)
    else if byteAt p 1 = 1 then some (byteAt p 0, .finish) else none
  else none

/-- R129: the operands of OPEN-TUNE. -/
structure OpenTune where
  slot   : Nat
  length : Nat
  m      : Nat
  n      : Nat
  gap    : Nat
  deriving DecidableEq, Repr

def OpenTune.inRange (o : OpenTune) : Bool :=
  decide (o.slot ≤ 63 ∧ 1 ≤ o.length ∧ o.length ≤ 4096 ∧ 1 ≤ o.m ∧ o.m ≤ 31 ∧ o.n ≤ 7 ∧
    o.gap ≤ 4095)

def parseOpenTune (p : List Byte) : Option OpenTune :=
  let o : OpenTune := { slot := byteAt p 0, length := wordAt p 1, m := byteAt p 3, n := byteAt p 4,
                        gap := wordAt p 5 }
  check (p.length == 7 && o.inRange) o

/-- The bytes cut into records of three. -/
def records3 : List Byte → List (List Byte)
  | x :: y :: z :: rest => [x, y, z] :: records3 rest
  | _ => []

/-- R209: pitch, force and delay of a record. -/
structure NoteRecord where
  pitch : Nat
  force : Nat
  delay : Nat
  deriving DecidableEq, Repr

def noteOf (r : List Byte) : NoteRecord :=
  { pitch := byteAt r 0 % 128, force := byteAt r 1 / 16,
    delay := 256 * (byteAt r 1 % 16) + byteAt r 2 }

/-- R125: a pitch field of 96 to 127 is invalid. -/
def recordOk (r : List Byte) : Bool := decide ((noteOf r).pitch ≤ 95)

/-- R131: slot, offset, and the records. -/
def parseWriteTune (p : List Byte) : Option (Nat × Nat × List (List Byte)) :=
  let records := records3 (p.drop 4)
  check
    (decide (4 ≤ p.length) && decide (byteAt p 0 ≤ 63 ∧ wordAt p 1 ≤ 4095) &&
     decide (1 ≤ byteAt p 3 ∧ byteAt p 3 ≤ 60) && p.length == 4 + 3 * byteAt p 3 &&
     records.all recordOk)
    (byteAt p 0, wordAt p 1, records)

/-- R132. -/
def parseCloseTune (p : List Byte) : Option (Nat × BitVec 16) :=
  check (p.length == 3 && decide (byteAt p 0 ≤ 63)) (byteAt p 0, BitVec.ofNat 16 (wordAt p 1))

/-- R138, R139: one map entry from its two bytes. -/
def readMapEntry (p a : Nat) : Option MapEntry :=
  (readBellOrNone p).bind fun primary =>
  (readBellOrNone a).bind fun alternate =>
  check (!(primary.isSome && primary == alternate)) { primary := primary, alternate := alternate }

/-- Map entries, two bytes each; `none` where one of them fails its check. -/
def readMapEntries : List Byte → Option (List MapEntry)
  | p :: a :: rest =>
    (readMapEntry p.toNat a.toNat).bind fun x => (readMapEntries rest).map (x :: ·)
  | [] => some []
  | [_] => none

/-- R139: map, first pitch, the entries. -/
def parseWriteMap (p : List Byte) : Option (MapId × Nat × List MapEntry) :=
  if 3 ≤ p.length ∧ byteAt p 1 ≤ 95 ∧ 1 ≤ byteAt p 2 ∧ byteAt p 2 ≤ 96 ∧
      p.length = 3 + 2 * byteAt p 2 ∧ byteAt p 1 + byteAt p 2 ≤ 96 then
    (readMapId (byteAt p 0)).bind fun m =>
    (readMapEntries (p.drop 3)).map fun es => (m, byteAt p 1, es)
  else none

/-- R141: map, first pitch, count. -/
def parseReadMap (p : List Byte) : Option (MapId × Nat × Nat) :=
  if p.length = 3 ∧ byteAt p 1 ≤ 95 ∧ 1 ≤ byteAt p 2 ∧ byteAt p 2 ≤ 96 ∧
      byteAt p 1 + byteAt p 2 ≤ 96 then
    (readMapId (byteAt p 0)).map fun m => (m, byteAt p 1, byteAt p 2)
  else none

/-- R158: pre-roll ms, catch-up limit s, restart margin ms. -/
def parseSetCalendar (p : List Byte) : Option (Nat × Nat × Nat) :=
  check
    (p.length == 6 && decide (500 ≤ wordAt p 0 ∧ wordAt p 0 ≤ 10000 ∧ wordAt p 2 ≤ 600 ∧
      100 ≤ wordAt p 4 ∧ wordAt p 4 ≤ 5000))
    (wordAt p 0, wordAt p 2, wordAt p 4)

/-- R174. -/
def parseSetConsole (p : List Byte) : Option ConsoleSettings :=
  (readYesNo (byteAt p 0)).bind fun enable =>
  (readYesNo (byteAt p 2)).bind fun preemptive =>
  (readLatency (byteAt p 3)).bind fun latency =>
  (readMapId (byteAt p 8)).bind fun map =>
  let c : ConsoleSettings :=
    { enable := enable, priority := byteAt p 1, preemptive := preemptive, latency := latency,
      delay := wordAt p 4, slack := wordAt p 6, map := map, hold := byteAt p 9,
      resume := byteAt p 10 }
  check
    (p.length == 11 && decide (c.priority ≤ 7 ∧ c.delay ≤ 500 ∧ c.slack ≤ 2000 ∧ 8 ≤ c.hold ∧
      c.hold ≤ 64 ∧ c.resume < c.hold))
    c

/-- R169: the two variants of END-CONSOLE. -/
inductive EndVariant where
  | drain | cut
  deriving DecidableEq, Repr

def parseEndConsole (p : List Byte) : Option EndVariant :=
  if p.length = 1 ∧ byteAt p 0 = 0 then some .drain
  else if p.length = 1 ∧ byteAt p 0 = 1 then some .cut else none

/-- R186. -/
def parseSetBus (p : List Byte) : Option Nat :=
  check (p.length == 2 && decide (16 ≤ wordAt p 0 ∧ wordAt p 0 ≤ 400)) (wordAt p 0)

/-- R187. -/
inductive BusSection where
  | status | orders (first : Nat) | hammers (first : Nat) | boards
  deriving DecidableEq, Repr

def parseReadBus (p : List Byte) : Option BusSection :=
  if p.length = 1 ∧ byteAt p 0 = 0 then some .status
  else if p.length = 1 ∧ byteAt p 0 = 3 then some .boards
  else if p.length = 2 ∧ byteAt p 0 = 1 ∧ byteAt p 1 ≤ 55 then some (.orders (byteAt p 1))
  else if p.length = 2 ∧ byteAt p 0 = 2 ∧ byteAt p 1 ≤ 55 then some (.hammers (byteAt p 1))
  else none

/-- R194, R204: a set of notice kinds; bits 13 to 15 are 0. -/
def parseNotices (p : List Byte) : Option (BitVec 13) :=
  check (p.length == 2 && decide (wordAt p 0 < 8192)) (BitVec.ofNat 13 (wordAt p 0))

/-! ### Frames -/

/-- R203: a response frame. -/
def Response.frame (r : Response) : List Byte :=
  let head := u8 r.status.code ++ u8 r.payload.length ++ r.payload
  head ++ word16 (crc16 head)

/-- R203. -/
def idleByte : Byte := 255

/-- R203: the command bytes that name a command. -/
def commandBytes : List Nat :=
  [16, 17, 18, 19, 32, 33, 34, 35, 36, 37, 48, 49, 56, 57, 58, 59, 60, 61, 64, 65, 66, 67, 68, 69,
   80, 81, 82, 88, 89, 96, 97, 98, 104, 105, 112, 113, 114, 126, 127]

/-- R190: the frame check over the bytes clocked in. -/
def frameGood (bytes : List Byte) : Bool :=
  let n := bytes.length
  decide (4 ≤ n) && decide (byteAt bytes 1 ≤ 248) && n == 2 + byteAt bytes 1 + 2 &&
    decide ((crc16 (bytes.take (n - 2))).toNat = wordAt bytes (n - 2))

/-- R189, R203: nothing but idle bytes. -/
def allIdle (bytes : List Byte) : Bool := bytes.all (· == idleByte)

/-- R205: the outcome byte of a STATE report. -/
def outcomeByte : Option Fate → Nat
  | some .completed => 1 | some .completedPartial => 2 | some .linkLost => 3 | some .stopped => 4
  | some .reset => 5 | _ => 0

/-- R205: the frame of a report to the console. The outcome byte is 0 except for OFF. -/
def Report.frame (r : Report) : List Byte :=
  let body := match r with
    | .refused => u8 145
    | .session st o => u8 144 ++ u8 st.code ++ u8 (if st = .off then outcomeByte o else 0)
    | .lamp pitch v => u8 146 ++ u8 pitch ++ u8 v.code
  body ++ [consoleCheck body]

/-- R207: an ACTUATE frame; the address mark is on its first character alone. -/
def actuateFrame (board hammer pulse : Nat) : List BusChar :=
  let bytes := u8 (16 + board) ++ u8 hammer ++ u8 pulse
  (bytes ++ word16 (crc16 bytes)).mapIdx fun i x => { byte := x, mark := i == 0, framed := true }

/-- R207: a POLL frame. -/
def pollFrame (board : Nat) : List BusChar :=
  let bytes := u8 (32 + board)
  (bytes ++ word16 (crc16 bytes)).mapIdx fun i x => { byte := x, mark := i == 0, framed := true }

/-- R207: what a valid reply carries. -/
structure Reply where
  faults   : Byte
  /-- hammer and age of each contact report, in order -/
  reports  : List (Nat × Nat)
  overflow : Bool
  deriving DecidableEq, Repr

/-- R207: the contact reports, two characters each. -/
def readReports : List Byte → List (Nat × Nat)
  | h :: l :: rest => ((h.toNat / 16) % 8, 256 * (h.toNat % 16) + l.toNat) :: readReports rest
  | _ => []

/-- R183, R208: a reply to a poll of this board, or `none` where it is not valid. -/
def readReply (board : Nat) (chars : List BusChar) : Option Reply :=
  let bytes := chars.map (·.byte)
  let n := bytes.length
  let count := byteAt bytes 2 % 8
  let reports := (bytes.drop 3).take (2 * count)
  let highBytes := (List.range count).map fun k => byteAt bytes (3 + 2 * k)
  check
    (chars.all (fun c => c.framed && !c.mark) && decide (5 ≤ n) && byteAt bytes 0 == board &&
     decide (count ≤ 4) && (byteAt bytes 2 / 8) % 16 == 0 && n == 3 + 2 * count + 2 &&
     highBytes.all (fun h => decide (h < 128)) &&
     decide ((crc16 (bytes.take (n - 2))).toNat = wordAt bytes (n - 2)))
    { faults := bytes.getD 1 0, reports := readReports reports,
      overflow := decide (128 ≤ byteAt bytes 2) }

/-- R6, R205, R206: the time a telegram names, or `none` where it fails its check. -/
def readTelegram (bytes : List Byte) : Option TowerTime :=
  let hour := byteAt bytes 1
  let minute := byteAt bytes 2
  let second := byteAt bytes 3
  check
    (bytes.length == 9 && byteAt bytes 0 == 165 &&
     (bytes.map BitVec.toNat).sum % 256 == 0 &&
     decide (hour ≤ 23 ∧ minute ≤ 59 ∧ second ≤ 59 ∧ byteAt bytes 4 ≤ 6) &&
     byteAt bytes 7 % 2 == 1)
    { day := wordAt bytes 5, weekday := byteAt bytes 4,
      ms := (hour * 3600 + minute * 60 + second) * 1000 }

end Sys2Proof.Machine
end

