-- ==== Sys2Proof/Decode.lean ====
section
/-! DEFINITION. Which bytes name which command: the requests of the Schedule Port (R203), and the words of the
table's bits. No row of the table gives bits: the part's commands are frames and events, not words. -/

namespace Sys2Proof

open Sys2Proof.Machine

def decodeTableWord (_nbits _w : Nat) : Option Instr := none

/-- R119: STOP-PLAYER is one command byte; the row is told by the variant, where the operands are read. -/
def stopPlayerRow (payload : List Byte) : Instr :=
  match parseStopPlayer payload with
  | some (_, .finish) => .stopPlayerFinish payload
  | _ => .stopPlayerStop payload

/-- R169: END-CONSOLE is one command byte; the row is told by the variant, where the operands are read. -/
def endConsoleRow (payload : List Byte) : Instr :=
  match parseEndConsole payload with
  | some .cut => .endConsoleCut payload
  | _ => .endConsoleEnd payload

/-- R203: the command that a command byte names, with its payload; `none` where the byte names none. -/
def commandNamed (command : Nat) (payload : List Byte) : Option Instr :=
  match command with
  | 16 => some (.setTime payload)
  | 17 => some (.snapshot payload)
  | 18 => some (.readSnapshot payload)
  | 19 => some (.readClock payload)
  | 32 => some (.readBell payload)
  | 33 => some (.setBell payload)
  | 34 => some (.lockBell payload)
  | 35 => some (.unlockBell payload)
  | 36 => some (.restoreBell payload)
  | 37 => some (.testStrike payload)
  | 48 => some (.writeMap payload)
  | 49 => some (.readMap payload)
  | 56 => some (.openTune payload)
  | 57 => some (.writeTune payload)
  | 58 => some (.closeTune payload)
  | 59 => some (.eraseTune payload)
  | 60 => some (.readTuneInfo payload)
  | 61 => some (.readStore payload)
  | 64 => some (.writeEntry payload)
  | 65 => some (.enableEntry payload)
  | 66 => some (.disableEntry payload)
  | 67 => some (.clearEntry payload)
  | 68 => some (.readEntry payload)
  | 69 => some (.setCalendar payload)
  | 80 => some (.playNow payload)
  | 81 => some (stopPlayerRow payload)
  | 82 => some (.readPlayer payload)
  | 88 => some (.readQueue payload)
  | 89 => some (.setQueue payload)
  | 96 => some (.setConsole payload)
  | 97 => some (.readConsole payload)
  | 98 => some (endConsoleRow payload)
  | 104 => some (.setBus payload)
  | 105 => some (.readBus payload)
  | 112 => some (.readNotices payload)
  | 113 => some (.clearNotices payload)
  | 114 => some (.setNoticeMask payload)
  | 126 => some (.restart payload)
  | 127 => some (.identify payload)
  | _ => none

/-- R203: a request frame. -/
def requestFrame (command : Byte) (payload : List Byte) : List Byte :=
  let head := [command] ++ u8 payload.length ++ payload
  head ++ word16 (crc16 head)

/-- R189 to R191: the row of the table that the bytes clocked in by a transaction are: a read where all are
idle, a bad frame where they fail the frame check, and otherwise the request they spell. -/
def transactionRow (bytes : List Byte) : Instr :=
  if allIdle bytes then .readTransaction bytes.length
  else if frameGood bytes then
    let payload := (bytes.drop 2).take (byteAt bytes 1)
    (commandNamed (byteAt bytes 0) payload).getD (.unknownCommand (bytes.getD 0 0) payload)
  else .badFrameRequest bytes

end Sys2Proof
end

