-- ==== Sys2Proof/Machine/Ops.lean ====
section
/-! DEFINITION. The named operations over the part's storage: the note record memory, the registers of
the blocks, the mail of events handed between blocks, notices, and the drawing of a free order. -/

namespace Sys2Proof.Machine

/-! ### The note record memory -/

/-- One byte of a record position. -/
def Memory.read (m : Memory) (a : Nat) : Byte :=
  match m with
  | [] => unlisted
  | c :: rest => if c.1 = a then c.2 else Memory.read rest a

/-- Writing the value an unlisted address reads as removes the entry, so that equal memories are equal
data. -/
def Memory.write (m : Memory) (a : Nat) (v : Byte) : Memory :=
  match m with
  | [] => if v = unlisted then [] else [(a, v)]
  | c :: rest =>
    if c.1 < a then c :: Memory.write rest a v
    else if c.1 = a then (if v = unlisted then rest else (a, v) :: rest)
    else if v = unlisted then c :: rest else (a, v) :: c :: rest

/-- R126: the address of byte 0 of the record of index i of a slot with this block list. -/
def recordAddress (blocks : List Nat) (i : Nat) : Nat :=
  3 * (64 * blocks.getD (i / 64) 0 + i % 64)

/-- R209: the three bytes of the record of index i. -/
def Memory.recordBytes (m : Memory) (blocks : List Nat) (i : Nat) : List Byte :=
  let a := recordAddress blocks i
  [m.read a, m.read (a + 1), m.read (a + 2)]

/-- R131: bytes written one after another from an address on. -/
def Memory.writeBytes (m : Memory) (a : Nat) : List Byte → Memory
  | [] => m
  | v :: vs => Memory.writeBytes (m.write a v) (a + 1) vs

/-- R131: records, three bytes each, written at indices i, i + 1 and so on. -/
def Memory.writeRecords (m : Memory) (blocks : List Nat) (i : Nat) : List (List Byte) → Memory
  | [] => m
  | r :: rs => Memory.writeRecords (m.writeBytes (recordAddress blocks i) r) blocks (i + 1) rs

/-! ### What the blocks read of one another -/

/-- The state that the events handed between the blocks of `Body` only read. -/
structure Env where
  time   : TimeBase
  memory : Memory
  bells  : List Bell
  mapA   : List MapEntry
  mapB   : List MapEntry
  deriving DecidableEq, Repr

def State.env (s : State) : Env :=
  { time := s.time, memory := s.memory, bells := s.bells, mapA := s.mapA, mapB := s.mapB }

/-- "Now": the Run Time at which the event is taken. -/
def Env.now (e : Env) : Nat := e.time.runTime

def State.now (s : State) : Nat := s.time.runTime

/-- A number that names no bell reads as a bell that is not present. -/
def Bell.absent : Bell := Bell.default false none

def Env.bell (e : Env) (i : Nat) : Bell := e.bells.getD i Bell.absent

def State.bell (s : State) (i : Nat) : Bell := s.bells.getD i Bell.absent

def Env.entryOf (e : Env) (m : MapId) (pitch : Nat) : MapEntry :=
  (match m with | .a => e.mapA | .b => e.mapB).getD pitch { primary := none, alternate := none }

/-! ### Registers of the blocks -/

def Body.hammer (b : Body) (i : Nat) : Hammer := b.hammers.getD i (Hammer.rest none)

def Body.setHammer (b : Body) (i : Nat) (h : Hammer) : Body :=
  { b with hammers := b.hammers.set i h }

def Body.player (b : Body) (p : Nat) : Player := b.players.getD p Player.fresh

def Body.setPlayer (b : Body) (p : Nat) (x : Player) : Body :=
  { b with players := b.players.set p x }

def Body.modPlayer (b : Body) (p : Nat) (f : Player → Player) : Body :=
  b.setPlayer p (f (b.player p))

def Body.slot (b : Body) (n : Nat) : Slot := b.slots.getD n Slot.emptySlot

def Body.setSlot (b : Body) (n : Nat) (x : Slot) : Body := { b with slots := b.slots.set n x }

def Body.entry (b : Body) (n : Nat) : Entry := b.cal.entries.getD n Entry.cleared

def Body.setEntry (b : Body) (n : Nat) (x : Entry) : Body :=
  { b with cal := { b.cal with entries := b.cal.entries.set n x } }

def Body.board (b : Body) (n : Nat) : Board := b.bus.boards.getD (n - 1) Board.fresh

def Body.setBoard (b : Body) (n : Nat) (x : Board) : Body :=
  { b with bus := { b.bus with boards := b.bus.boards.set (n - 1) x } }

def Body.holder (b : Body) (i : Nat) : Option Nat := b.claims.holders.getD i none

def Body.claim (b : Body) (p : Nat) : ClaimRecord := b.claims.records.getD p ClaimRecord.fresh

def Body.setClaim (b : Body) (p : Nat) (r : ClaimRecord) : Body :=
  { b with claims := { b.claims with records := b.claims.records.set p r } }

def Body.setSched (b : Body) (x : Scheduler) : Body := { b with sched := x }

def Body.setClaims (b : Body) (x : Claims) : Body := { b with claims := x }

def Body.setCon (b : Body) (x : Console) : Body := { b with con := x }

def Body.setBus (b : Body) (x : Bus) : Body := { b with bus := x }

def Body.setPort (b : Body) (x : Port) : Body := { b with port := x }

def State.setBody (s : State) (b : Body) : State := { s with body := b }

def State.setTime (s : State) (t : TimeBase) : State := { s with time := t }

/-! ### Mail -/

/-- Hand an event on, to be taken after those handed on before it. -/
def Body.send (b : Body) (m : Msg) : Body := { b with mail := b.mail ++ [m] }

/-- Hand an event on, to be taken next. -/
def Body.sendFirst (b : Body) (m : Msg) : Body := { b with mail := m :: b.mail }

def Body.sendAllFirst (b : Body) (ms : List Msg) : Body := { b with mail := ms ++ b.mail }

/-- R75: the ways by which strikes of this player left whose removal events are not taken yet. -/
def Body.untaken (b : Body) (p : Nat) : List Way :=
  b.mail.filterMap fun m => match m with
    | .removal q way _ _ => if q = p then some way else none
    | _ => none

/-! ### Notices -/

/-- The bit of each kind (R204). -/
def Notice.bit : Notice → Nat
  | .perfEnd => 0 | .preempted => 1 | .claimTimeout => 2 | .bellFailed => 3 | .boardOffline => 4
  | .boardOnline => 5 | .clockState => 6 | .clockStep => 7 | .queueFull => 8
  | .consoleSession => 9 | .access => 10 | .calendarMissed => 11 | .configError => 12

/-- R193: the pending flag becomes set and the raise count rises by 1. -/
def Port.raise (p : Port) (n : Notice) : Port :=
  { p with pendingFlags := p.pendingFlags ||| (1#13 <<< n.bit),
           raises := p.raises.modify n.bit (· + 1) }

def Body.raise (b : Body) (n : Notice) : Body := b.setPort (b.port.raise n)

def State.raise (s : State) (n : Notice) : State := s.setBody (s.body.raise n)

/-! ### A free order -/

/-- The members of a list in an order that free values decide: at each place a draw picks one of those
left. A list of one member draws nothing. -/
def freeOrder {α : Type} : Nat → List α → Nat → List α × Nat
  | 0, l, d => (l, d)
  | _ + 1, [], d => ([], d)
  | _ + 1, [x], d => ([x], d)
  | n + 1, x :: y :: l, d =>
    let all := x :: y :: l
    let i := Config.freeChoice d % all.length
    let r := freeOrder n (all.eraseIdx i) (d + 1)
    (all.getD i x :: r.1, r.2)

/-- Hand events on, to be taken next, in a free order among themselves (log 5). -/
def Body.sendFree (b : Body) (ms : List Msg) : Body :=
  let r := freeOrder ms.length ms b.draws
  { b with mail := r.1 ++ b.mail, draws := r.2 }

end Sys2Proof.Machine
end

