-- ==== Sys2Proof/Machine/Flags.lean ====
section
/-! DEFINITION. The conditions the manual computes from other state: health and availability, the counts
of the Strike Queue, READY and NOTICE, and what is owed to the console. -/

namespace Sys2Proof.Machine

/-- SOFT for force 1 to 8, LOUD for force 9 to 15 (R37, R61). -/
def bandOf (force : Nat) : Band := if force ≤ 8 then .soft else .loud

/-- Health is derived from the failure cause and the miss run (02_the_bell_table.md, Health). -/
def Bell.health (r : Bell) : Health :=
  match r.cause with
  | .noFailure => if r.missRun = 0 then .ready else .suspect
  | .misses => .failed
  | .boardFault => .failed

/-- R29: the five conditions of availability. -/
def Bell.mayBeStruck (r : Bell) : Bool :=
  r.present && r.calibrated && !r.lockout && r.health != .failed && r.boardOnline

/-- R58: the counts of the queue. -/
def Body.occupancy (b : Body) : Nat := b.sched.queue.length

def Body.queuedCount (b : Body) (p : Nat) : Nat :=
  b.sched.queue.countP (fun k => k.player == some p)

def Body.testCount (b : Body) : Nat := b.sched.queue.countP (fun k => k.origin == .test)

/-- The sum of the queued counts of players 1 to 7. -/
def Body.tuneTotal (b : Body) : Nat :=
  ((List.range 7).map fun i => b.queuedCount (i + 1)).sum

def Body.quota (b : Body) (p : Nat) : Nat := b.sched.quotas.getD (p - 1) 0

/-- R62: the clear instant of the bell's latest queued strike. -/
def Body.projectedFree (b : Body) (bell : Nat) : Option Nat :=
  ((b.sched.queue.filter fun k => k.bell == bell).getLast?).map (·.clear)

/-- R189: READY is asserted exactly while a response waits. -/
def Port.ready (p : Port) : Bool := p.response.isSome

/-- R193: NOTICE is asserted exactly while at least one kind is both pending and enabled. -/
def Port.notice (p : Port) : Bool := (p.pendingFlags &&& p.enabled) != 0#13

/-- R164, R173: the STATE report that the present session would be told by. -/
def Console.stateReport (c : Console) : SessionState × Option Fate :=
  (c.session, if c.session = .off then c.lastOutcome else none)

/-- R173: a session STATE report is owed. -/
def Console.stateOwed (c : Console) : Bool := c.sentState != some c.stateReport

/-- R173: a lamp report is owed for this pitch. R173's words decide alone, also at an OPEN, where R165 has a
report owed for every HELD pitch: the model's choice where the two differ (log 57). -/
def Console.lampOwed (c : Console) (pitch : Nat) : Bool :=
  c.lamps.getD pitch .lost != c.sentLamps.getD pitch .lost

/-- R173: the report to be sent next, if something is owed. -/
def Console.nextReport (c : Console) : Option Report :=
  if c.refusedOwed then some .refused
  else if c.stateOwed then some (.session c.stateReport.1 c.stateReport.2)
  else ((List.range 96).find? c.lampOwed).map fun p => .lamp p (c.lamps.getD p .lost)

/-- R173: an idle transmitter begins an owed report. -/
def Console.transmit (c : Console) : Console :=
  if c.sending = none then { c with sending := c.nextReport } else c

/-- R163: HOLD as an arrival leaves it. -/
def Console.holdAfterArrival (c : Console) : Bool :=
  if c.settings.hold ≤ c.fifo.length then true else c.hold

/-- R163: HOLD as a removal from the head leaves it. -/
def Console.holdAfterRemoval (c : Console) : Bool :=
  if c.fifo.length ≤ c.settings.resume then false else c.hold

/-- R170: the link-loss deadline, present while the session is LIVE. -/
def Console.linkDeadline (c : Console) : Option Nat :=
  if c.session = .live then c.lastByte.map (· + 40000) else none

/-- R5: the holdover deadline, present while LOCKED. -/
def TimeBase.holdoverDeadline (t : TimeBase) : Option Nat :=
  if t.clock = .locked then t.lastMark.map (· + 28000) else none

end Sys2Proof.Machine
end

