-- ==== Sys2Proof/Machine/BellTable.lean ====
section
/-! DEFINITION. The bell record: what it serves to other blocks and what the reports of the Hammer Cycle
and the Hammer Bus do to it (R21 to R28, R33). -/

namespace Sys2Proof.Machine

/-- R21: the mean of the D most recent values, the remainder discarded. -/
def BandRing.mean (r : BandRing) (depth : Nat) : Nat :=
  ((List.range depth).map fun i => r.values.getD ((r.position + 7 - i) % 8) 0).sum / depth

def Bell.ring (r : Bell) : Band → BandRing
  | .soft => r.soft
  | .loud => r.loud

/-- R21. -/
def Bell.estimate (r : Bell) (band : Band) : Nat := (r.ring band).mean r.depth

/-- R23: the estimate and one eighth for the frame. -/
def Bell.lead (r : Bell) (band : Band) : Nat := r.estimate band + 1

/-- R23. -/
def Bell.windowFor (r : Bell) (band : Band) : Nat := r.estimate band * r.window / 128

/-- R23. -/
def Bell.maskFor (r : Bell) (band : Band) : Nat := r.estimate band * r.mask / 128

/-- R24. -/
def Bell.pulse (r : Bell) (force : Nat) : Nat := r.p1 + (r.p15 - r.p1) * (force - 1) / 14

/-- R22: the value enters the ring at its position, which moves on. -/
def BandRing.put (r : BandRing) (v : Nat) : BandRing :=
  { values := r.values.set r.position v, position := (r.position + 1) % 8 }

/-- R22: a capture is accepted within the floor and ceiling, or rejected. -/
def Bell.capture (r : Bell) (band : Band) (v : Nat) : Bell :=
  if r.floor ≤ v ∧ v ≤ r.ceiling then
    match band with
    | .soft => { r with soft := r.soft.put v }
    | .loud => { r with loud := r.loud.put v }
  else { r with rejected := r.rejected + 1 }

/-- R25: a contact report taken in DRIVE. -/
def Bell.contactAt (r : Bell) (instant : Nat) : Bell :=
  { r with missRun := 0, contacts := r.contacts + 1, lastContact := some instant }

/-- R26: a presumed strike; `online` is the board online flag at the expiry. -/
def Bell.presume (r : Bell) (online : Bool) : Bell :=
  let r := { r with presumed := r.presumed + 1 }
  if online then
    let run := min 15 (r.missRun + 1)
    { r with missRun := run,
             cause := if r.cause = .noFailure ∧ r.missLimit ≤ run then .misses else r.cause }
  else r

/-- R27: a late contact carrying the miss run before the presumption. -/
def Bell.lateContact (r : Bell) (carried instant : Nat) : Bell :=
  let run := if carried < r.missRun then carried else r.missRun
  { r with lateContacts := r.lateContacts + 1, lastContact := some instant, missRun := run,
           cause := if r.cause = .misses ∧ run < r.missLimit then .noFailure else r.cause }

/-- R28: the fault indication of a reply. -/
def Bell.faultIndication (r : Bell) (set : Bool) : Bell :=
  { r with faultReported := set, cause := if set then .boardFault else r.cause }

/-- R33, R35: every calibration operand written, both rings seeded. -/
def Bell.calibrate (r : Bell) (c : Calibration) : Bell :=
  { r with placement := c.placement, floor := c.floor, ceiling := c.ceiling, depth := c.depth,
           soft := .seed c.softSeed, loud := .seed c.loudSeed, window := c.window, mask := c.mask,
           recovery := c.recovery, p1 := c.p1, p15 := c.p15, missLimit := c.missLimit }

/-- R33, R34: the miss run, the failure cause and with them the health are cleared. -/
def Bell.clearHealth (r : Bell) : Bell := { r with missRun := 0, cause := .noFailure }

/-- R20: the present bell, if any, placed on this board and hammer. -/
def State.bellAt (s : State) (board hammer : Nat) : Option Nat :=
  (List.range 56).find? fun i =>
    (s.bell i).present && (s.bell i).placement == some (board, hammer)

/-- R29: whether a placement names a board that is ONLINE. -/
def Body.placedOnline (b : Body) : Option (Nat × Nat) → Bool
  | none => false
  | some (board, _) => (b.board board).online

/-- R35: the reset of a record at warm reset. -/
def Bell.warmReset (r : Bell) : Bell :=
  { r with boardOnline := false, faultReported := false, lastContact := none, available := false }

end Sys2Proof.Machine
end

