-- ==== Sys2Proof/Machine/BusLine.lean ====
section
/-! DEFINITION. The Hammer Bus Controller's send list, line and poll sequencer, and the part of the hammer
context that orders move: hand-off, cancellation, entry to IDLE (R37, R39, R48, R177 to R182). -/

namespace Sys2Proof.Machine

/-- R48: a context enters IDLE, and the hammer-free event is handed to the Strike Scheduler. -/
def Body.enterIdle (b : Body) (i : Nat) : Body :=
  (b.setHammer i (.rest (b.hammer i).band)).sendFirst (.hammerFree i)

/-- R37: the hand-off begins a cycle. -/
def Body.orderHammer (b : Body) (i : Nat) (band : Band) : Body :=
  b.setHammer i { Hammer.rest (some band) with state := .ordered }

/-- R39: a cancellation is taken at a hammer in ORDERED. -/
def Body.cancelHammer (b : Body) (i : Nat) : Body :=
  if (b.hammer i).state = .ordered then b.enterIdle i else b

/-- R178: orders stand by fire instant, then by bell number. -/
def insertOrder (o : Order) : List Order → List Order
  | [] => [o]
  | x :: rest =>
    if x.fire < o.fire ∨ (x.fire = o.fire ∧ x.bell ≤ o.bell) then x :: insertOrder o rest
    else o :: x :: rest

def Body.orderOf (b : Body) (bell : Nat) : Option Order :=
  b.bus.sendList.find? fun o => o.bell == bell

/-- R181: the waiting board first found after the poll pointer, wrapping from BOARDS to 1. -/
def Body.nextPoll (b : Body) : Option Nat :=
  let n := b.port.boards
  ((List.range n).map fun k => (b.bus.pointer + k) % n + 1).find? fun board =>
    b.bus.waitingPoll.getD (board - 1) false

/-- R181: a POLL starts. It occupies the line for 2 eighths (R177). -/
def Bus.startPoll (u : Bus) (now board : Nat) : Bus :=
  { u with line := .poll board (now + 2), waitingPoll := u.waitingPoll.set (board - 1) false,
           pointer := board, pollsSent := u.pollsSent + 1, consecutive := 0 }

/-- R182: the first order of the list starts. It occupies the line for 1 eighth (R177). -/
def Bus.startActuate (u : Bus) (now : Nat) : Bus :=
  match u.sendList with
  | [] => u
  | o :: rest =>
    { u with line := .actuate o.bell (now + 1) false, sendList := { o with onLine := true } :: rest }

/-- R182: the choice of the next frame, made while the line is IDLE. -/
def Body.chooseFrame (now : Nat) (b : Body) : Body :=
  if b.bus.line = .idle then
    match b.nextPoll with
    | some board =>
      if 16 ≤ b.bus.consecutive ∨ b.bus.sendList = [] then b.setBus (b.bus.startPoll now board)
      else b.setBus (b.bus.startActuate now)
    | none => b.setBus (b.bus.startActuate now)
  else b

/-- The causes of a cancellation (R179). -/
inductive CancelCause where
  | access | offline | unavailable
  deriving DecidableEq, Repr

def Bus.countCancel (u : Bus) : CancelCause → Bus
  | .access => { u with cancelledAccess := u.cancelledAccess + 1 }
  | .offline => { u with cancelledOffline := u.cancelledOffline + 1 }
  | .unavailable => { u with cancelledUnavailable := u.cancelledUnavailable + 1 }

/-- R179: a frame on the line whose order is cancelled is cut off; the line stays occupied. -/
def Line.cutOff (l : Line) (bell : Nat) : Line :=
  match l with
  | .actuate x ends c => if x = bell then .actuate x ends true else .actuate x ends c
  | .poll board ends => .poll board ends
  | .idle => .idle

/-- R178, R179: the order for a bell, if one stands in the list, is cancelled. -/
def Body.cancelOrder (b : Body) (bell : Nat) (cause : CancelCause) : Body :=
  match b.orderOf bell with
  | none => b
  | some _ =>
    let u := b.bus.countCancel cause
    (b.setBus { u with sendList := u.sendList.filter (fun o => o.bell != bell),
                       line := u.line.cutOff bell }).cancelHammer bell

/-- R178: an order is taken into the list. While Belfry Access is asserted it is cancelled in the event
of its taking; on an IDLE line a frame is chosen in the same event. -/
def Body.takeOrder (now : Nat) (o : Order) (b : Body) : Body :=
  let b := b.setBus { b.bus with sendList := insertOrder o b.bus.sendList }
  if b.bus.access then b.cancelOrder o.bell .access else b.chooseFrame now

/-- Orders cancelled one after another (R180, R185), in list order (the model's choice, log 51). -/
def Body.cancelOrders (b : Body) (cause : CancelCause) : List Order → Body
  | [] => b
  | o :: rest => (b.cancelOrder o.bell cause).cancelOrders cause rest

/-- R181: a poll round begins: clear flags are set, and each flag still set is a poll overtaken. -/
def Bus.beginRound (u : Bus) (boards : Nat) : Bus :=
  { u with waitingPoll := u.waitingPoll.mapIdx (fun i w => w || decide (i < boards)),
           pollsOvertaken := u.pollsOvertaken + BitVec.ofNat 32 ((u.waitingPoll.take boards).count true),
           nextRound := u.nextRound + 64 }

/-- R207: the characters of the frame on the line; none while it is IDLE or cut off. -/
def Body.frameOnLine (b : Body) : List BusChar :=
  match b.bus.line with
  | .idle => []
  | .poll board _ => pollFrame board
  | .actuate bell _ cut =>
    match b.orderOf bell with
    | some o => if cut then [] else actuateFrame o.board o.hammer o.pulse
    | none => []

end Sys2Proof.Machine
end

