-- ==== Sys2Proof/Machine/StrikeQueue.lean ====
section
/-! DEFINITION. The Strike Scheduler: the queue's order, removal, hand-off, dispatch and the six steps of
admission (R56 to R76), and the Hammer Cycle's projected end that admission asks for (R49). -/

namespace Sys2Proof.Machine

/-! ### Order and removal -/

/-- R57: after every strike whose fire instant is equal or earlier, before every later one. -/
def insertStrike (k : Strike) : List Strike → List Strike
  | [] => [k]
  | x :: rest => if x.fire ≤ k.fire then x :: insertStrike k rest else k :: x :: rest

/-- R76: the counter of the way a strike left. -/
def Scheduler.countWay (c : Scheduler) : Way → Scheduler
  | .fired => { c with fired := c.fired + 1 }
  | .withdrawn => { c with withdrawn := c.withdrawn + 1 }
  | .late => { c with discardedLate := c.discardedLate + 1 }
  | .blocked => { c with discardedBlocked := c.discardedBlocked + 1 }
  | .unavailable => { c with discardedUnavailable := c.discardedUnavailable + 1 }

/-- A strike leaves the queue: its counter rises, its player is handed a removal event (R75) and the
Console Interface a room event (R167). -/
def Body.removeAt (b : Body) (position : Nat) (way : Way) : Body :=
  match b.sched.queue[position]? with
  | none => b
  | some k =>
    let c := b.sched.countWay way
    let b := b.setSched { c with queue := c.queue.eraseIdx position }
    let b := match k.player with
      | some p => b.send (.removal p way (b.queuedCount p) b.tuneTotal)
      | none => b
    b.send .considerHead

/-- Every strike that meets a condition leaves the queue the same way; the first number bounds how many.
That they leave, and hand their removal events, in queue order is the model's choice (log 46). -/
def Body.removeWhere (way : Way) (cond : Strike → Bool) : Nat → Body → Body
  | 0, b => b
  | n + 1, b =>
    match b.sched.queue.findIdx? cond with
    | none => b
    | some i => (b.removeAt i way).removeWhere way cond n

def Body.removeAll (b : Body) (way : Way) (cond : Strike → Bool) : Body :=
  b.removeWhere way cond b.occupancy

/-- R72: every strike of a player. -/
def Body.withdrawPlayer (b : Body) (p : Nat) : Body :=
  b.removeAll .withdrawn fun k => k.player == some p

/-- R72: every strike of a player on one bell. -/
def Body.withdrawOnBell (b : Body) (p bell : Nat) : Body :=
  b.removeAll .withdrawn fun k => k.player == some p && k.bell == bell

/-- R73: every TEST strike on one bell. -/
def Body.withdrawTest (b : Body) (bell : Nat) : Body :=
  b.removeAll .withdrawn fun k => k.player == none && k.bell == bell

/-- R70: the total lateness of a waiting DUE strike exceeds the late limit. -/
def Body.tooLate (now : Nat) (b : Body) (k : Strike) : Bool :=
  k.state == .due && decide (b.sched.lateLimit < now - k.fire + k.admittedLate)

/-! ### Dispatch -/

/-- R68: a hand-off. The hammer context is moved before the order is taken, so that an order cancelled
on taking finds it in ORDERED. -/
def Body.handOff (e : Env) (b : Body) (position : Nat) : Body :=
  match b.sched.queue[position]? with
  | none => b
  | some k =>
    let bell := e.bell k.bell
    let place := bell.placement.getD (0, 0)
    ((b.removeAt position .fired).orderHammer k.bell k.band).takeOrder e.now
      { bell := k.bell, board := place.1, hammer := place.2, pulse := bell.pulse k.force,
        band := k.band, fire := k.fire, onLine := false }

/-- R67, R68: the hammer is at rest with no order in the send list. -/
def Body.hammerFreeFor (b : Body) (bell : Nat) : Bool :=
  (b.hammer bell).state == .idle && (b.orderOf bell).isNone

/-- R69: no DUE strike of the bell stands earlier in the queue. -/
def Body.firstDue (b : Body) (bell position : Nat) : Bool :=
  b.sched.queue.findIdx? (fun k => k.bell == bell && k.state == .due) == some position

/-- R67: what is done with a DUE strike at this position. -/
def Body.dispatchAt (e : Env) (b : Body) (position : Nat) : Body :=
  match b.sched.queue[position]? with
  | none => b
  | some k =>
    if b.sched.access then b.removeAt position .blocked
    else if b.hammerFreeFor k.bell && b.firstDue k.bell position then b.handOff e position
    else b

/-- R67: the strike at this position becomes DUE. -/
def Body.becomeDue (e : Env) (b : Body) (position : Nat) : Body :=
  (b.setSched { b.sched with
    queue := b.sched.queue.modify position fun k => { k with state := .due } }).dispatchAt e position

/-- R69: the hammer-free event: the bell's earliest DUE strike is handed off. -/
def Body.takeHammerFree (e : Env) (b : Body) (bell : Nat) : Body :=
  match b.sched.queue.findIdx? (fun k => k.bell == bell && k.state == .due) with
  | none => b
  | some i => if !b.sched.access && b.hammerFreeFor bell then b.handOff e i else b

/-! ### Admission -/

/-- R49: the projected end of the bell's present cycle. -/
def Body.projectedEnd (e : Env) (b : Body) (bell : Nat) : Option Nat :=
  let h := b.hammer bell
  let r := e.bell bell
  let band := h.band.getD .soft
  match h.state with
  | .idle => none
  | .ordered => some (e.now + 1 + r.estimate band + r.maskFor band + r.recovery)
  | .drive =>
    some (max (h.send.getD 0 + r.estimate band) e.now + r.maskFor band + r.recovery)
  | .mask => h.timerEnd.map (· + r.recovery)
  | .settle => h.timerEnd

/-- The later of two instants, either of which may be absent. -/
def laterOf : Option Nat → Option Nat → Option Nat
  | none, y => y
  | some x, none => some x
  | some x, some y => some (max x y)

/-- R62: the spacing instant. -/
def Body.spacing (e : Env) (b : Body) (bell : Nat) : Option Nat :=
  laterOf (b.projectedFree bell) (b.projectedEnd e bell)

/-- R59: an admission request; the slack is in eighths. -/
structure Request where
  bell         : Nat
  force        : Nat
  sounding     : Nat
  origin       : Origin
  player       : Option Nat
  tunePosition : Option (Nat × Nat)
  policy       : Policy
  slack        : Nat
  deriving DecidableEq, Repr

/-- R59: the four refusals. -/
inductive Reason where
  | unavailable | recovery | late | full
  deriving DecidableEq, Repr

/-- R59: the result handed back to the requester. -/
inductive Admission where
  | admitted (fire sounding deferral late : Nat)
  | refused (reason : Reason)
  deriving DecidableEq, Repr

/-- R60, step 1. -/
def Body.step1 (e : Env) (b : Body) (r : Request) : Bool :=
  (e.bell r.bell).available &&
    (match r.player with
     | some p => b.holder r.bell == some p
     | none => (b.holder r.bell).isNone)

/-- R63, step 3: the shift, or `none` for RECOVERY. The fire instant may lie before Run Time 0 (R61). -/
def spacingShift (spacing : Option Nat) (fire : Int) (policy : Policy) (slack : Nat) : Option Nat :=
  match spacing with
  | none => some 0
  | some sp =>
    if fire ≥ sp then some 0
    else
      let shift := ((sp : Int) - fire).toNat
      if policy = .defer ∧ shift ≤ slack then some shift else none

/-- R65, step 5: there is room. -/
def Body.hasRoom (b : Body) (player : Option Nat) : Bool :=
  decide (b.occupancy < 256) &&
    (match player with
     | none => true
     | some p =>
       p == 0 || (decide (b.tuneTotal < 224) && decide (b.queuedCount p < b.quota p)))

/-- R66, step 6: insertion, and the dispatch at once of a strike whose fire instant is reached. -/
def Body.insertStrike (e : Env) (b : Body) (k : Strike) : Body :=
  let c := b.sched
  let b := b.setSched { c with queue := Machine.insertStrike k c.queue, admitted := c.admitted + 1 }
  if k.state = .due then
    match b.sched.queue.findIdx? (· == k) with
    | some i => b.dispatchAt e i
    | none => b
  else b

/-- R59 to R66: the six steps. -/
def Body.decideAdmission (e : Env) (b : Body) (r : Request) : Body × Admission :=
  let bell := e.bell r.bell
  let band := bandOf r.force
  let fire0 : Int := (r.sounding : Int) - (bell.lead band : Int)
  if !b.step1 e r then (b, .refused .unavailable)
  else
    match spacingShift (b.spacing e r.bell) fire0 r.policy r.slack with
    | none => (b, .refused .recovery)
    | some shift =>
      let fire1 : Int := fire0 + shift
      let lateness := ((e.now : Int) - fire1).toNat
      if b.sched.lateLimit < lateness then (b, .refused .late)
      else if !b.hasRoom r.player then (b.raise .queueFull, .refused .full)
      else
        let fire := (fire1 + lateness).toNat
        let sounding := r.sounding + shift + lateness
        let est := bell.estimate band
        let k : Strike :=
          { bell := r.bell, force := r.force, band := band, sounding := sounding, fire := fire,
            origin := r.origin, player := r.player, tunePosition := r.tunePosition,
            deferral := shift, admittedLate := lateness,
            clear := fire + est + bell.maskFor band + bell.recovery,
            state := if fire ≤ e.now then .due else .queued }
        (b.insertStrike e k, .admitted fire sounding shift lateness)

end Sys2Proof.Machine
end

