-- ==== Sys2Proof/Machine/Lamps.lean ====
section
/-! DEFINITION. Pitch lookups (R104, R111), the console's lamps (R172), and availability: how a change of
a bell record reaches the other blocks (R29, R74, R179). -/

namespace Sys2Proof.Machine

/-- R111: a bell that is available and held by this player. -/
def Body.strikable (e : Env) (b : Body) (p : Nat) (bell : Option Nat) : Option Nat :=
  bell.filter fun i => (e.bell i).available && b.holder i == some p

/-- R111: the primary, otherwise the alternate, otherwise no bell. -/
def Body.lookup (e : Env) (b : Body) (p : Nat) (m : MapId) (pitch : Nat) : Option Nat :=
  let x := e.entryOf m pitch
  (b.strikable e p x.primary).or (b.strikable e p x.alternate)

/-- R104: the bell a launch claims for a pitch. -/
def Env.claimedBell (e : Env) (m : MapId) (pitch : Nat) : Option Nat :=
  let x := e.entryOf m pitch
  let playable := fun (bell : Option Nat) => bell.filter fun i => (e.bell i).available
  (playable x.primary).or ((playable x.alternate).or (x.primary.or x.alternate))

/-! ### Lamps -/

/-- R172: the value of a pitch while the session is LIVE or CLOSING. -/
def Body.lampValue (e : Env) (b : Body) (pitch : Nat) : Lamp :=
  if (b.lookup e 0 b.con.settings.map pitch).isSome then .held else .lost

/-- R172: the values of these pitches are computed again; while the session is OFF every value stays
LOST. -/
def Body.recomputeLamps (e : Env) (b : Body) (which : Nat → Bool) : Body :=
  if b.con.session = .off then b
  else
    b.setCon { b.con with
      lamps := b.con.lamps.mapIdx fun p v => if which p then b.lampValue e p else v }

/-- R172: the pitches whose console-map entry names a bell. -/
def Body.pitchNames (e : Env) (b : Body) (bell pitch : Nat) : Bool :=
  let x := e.entryOf b.con.settings.map pitch
  x.primary == some bell || x.alternate == some bell

def Body.lampsOfBell (e : Env) (b : Body) (bell : Nat) : Body :=
  b.recomputeLamps e (b.pitchNames e bell)

/-! ### Availability -/

/-- R29, R74, R179: the Strike Scheduler takes a fall: the bell's strikes are discarded, and the order
for the bell, if any, is cancelled. -/
def Body.takeFall (b : Body) (bell : Nat) : Body :=
  (b.removeAll .unavailable fun k => k.bell == bell).cancelOrder bell .unavailable

/-- R29: the event of a change of availability, at the blocks it is handed to. -/
def Body.availabilityEvent (e : Env) (b : Body) (bell : Nat) (rises : Bool) : Body :=
  (if rises then b else b.takeFall bell).lampsOfBell e bell

/-- A bell record is written. Health becoming FAILED raises BELL-FAILED (R26, R28), and a change of
availability is handed on (R29). -/
def State.writeBell (s : State) (i : Nat) (r : Bell) : State :=
  let old := s.bell i
  let s := { s with bells := s.bells.set i { r with available := r.mayBeStruck } }
  let s := if old.health ≠ .failed ∧ r.health = .failed then s.raise .bellFailed else s
  if r.mayBeStruck = old.available then s
  else s.setBody (s.body.availabilityEvent s.env i r.mayBeStruck)

/-- R29: a board event sets the flag of every present bell placed on the board. The flag of a bell that is
not present stays no (log 45), and the bells are taken by rising number (log 51): both the model's
choices. -/
def State.boardEvent (s : State) (board : Nat) (online : Bool) : State :=
  (List.range 56).foldl (fun s i =>
    let r := s.bell i
    match r.placement with
    | some (x, _) =>
      if r.present ∧ x = board then s.writeBell i { r with boardOnline := online } else s
    | none => s) s

end Sys2Proof.Machine
end

