-- ==== Sys2Proof/Machine/Arbiter.lean ====
section
/-! DEFINITION. The Claim Arbiter (05_bell_claims.md), and the steps of a player's entry into FREE that a
preempting grant makes for an aborted holder (R89, R116). -/

namespace Sys2Proof.Machine

/-! ### A player leaves its performance -/

/-- R116, steps 1 and 2: outcome, FREE, generation DONE; the slot's users count falls. -/
def Body.leavePerformance (b : Body) (p : Nat) (fate : Fate) : Body :=
  let slot := (b.player p).perf.bind (·.slot)
  let b := b.modPlayer p fun x =>
    { x with state := .free, generation := .done, stallReason := none, wake := none,
             lastOutcome := some fate }
  match slot with
  | none => b
  | some n => b.setSlot n { b.slot n with users := (b.slot n).users - 1 }

/-- R116, steps 4 and 5: PERF-END, and the end event to the Calendar or the Console Interface. -/
def Body.announceEnd (b : Body) (p : Nat) (fate : Fate) : Body :=
  let x := b.player p
  let b := if x.noticeOnEnd then b.raise .perfEnd else b
  let b := match x.perf.map (·.origin) with
    | some (.entry n) => b.send (.calendarEnd n p fate)
    | _ => b
  if p = 0 then b.send (.consoleEnd fate) else b

/-! ### Sets -/

/-- A set of players kept in rising order. -/
def addMember (p : Nat) : List Nat → List Nat
  | [] => [p]
  | x :: rest => if x < p then x :: addMember p rest else if x = p then x :: rest else p :: x :: rest

def Body.waitingOn (b : Body) (bell : Nat) : List Nat := b.claims.waiting.getD bell []

/-- The bells a player holds, and those it waits for (R82). -/
def Body.bellsHeld (b : Body) (p : Nat) : List Nat :=
  (List.range 56).filter fun i => b.holder i == some p

def Body.bellsWaited (b : Body) (p : Nat) : List Nat :=
  (List.range 56).filter fun i => (b.waitingOn i).contains p

def Body.joinWaiting (b : Body) (p bell : Nat) : Body :=
  b.setClaims { b.claims with waiting := b.claims.waiting.modify bell (addMember p) }

/-- The priority of a player's claim; 7 stands for a record never written, which holds nothing. -/
def Body.claimPriority (b : Body) (p : Nat) : Nat := ((b.claim p).body.map (·.priority)).getD 7

def Body.isWhole (b : Body) (p : Nat) : Bool := (b.claim p).body.map (·.kind) == some .whole

/-! ### Granting -/

/-- R85: the bell is free, or the claim may take it from a holder of lower priority. -/
def Body.canTake (b : Body) (c : ClaimBody) (bell : Nat) : Bool :=
  match b.holder bell with
  | none => true
  | some h => c.preemptive && decide (c.priority < b.claimPriority h)

/-- R92: every bell of a player becomes free, it leaves every pending set, its record becomes NONE; for
player 0 a holding event follows for each bell. Answers the bells freed. -/
def Body.clearClaim (b : Body) (p : Nat) : Body × List Nat :=
  let freed := b.bellsHeld p
  let b := b.setClaims { b.claims with
    holders := b.claims.holders.map fun h => if h = some p then none else h
    waiting := b.claims.waiting.map fun w => w.filter (· != p)
    records := b.claims.records.modify p fun r => { r with state := .noClaim, deadline := none } }
  ((if p = 0 then freed.foldl (fun b i => b.send (.holding i)) b else b), freed)

/-- R88, R90: a grant takes a bell from its holder. -/
def Body.takeFrom (b : Body) (h bell : Nat) : Body :=
  let b := b.withdrawOnBell h bell
  let b :=
    if b.isWhole h then b
    else
      let b := (b.joinWaiting h bell).setClaim h { b.claim h with state := .partGranted }
      if h = 0 then b.send (.holding bell) else b
  b.raise .preempted

/-- R71, R74, R75, R118: strikes discarded before an abort count as lost, whatever of their removal events is
still to be taken; R89 lets only the withdrawals of the preempting grant be taken after it (log 25). -/
def Body.takeDiscards (b : Body) (h : Nat) : Body :=
  let discard := fun way : Way => way != .fired && way != .withdrawn
  b.modPlayer h fun x => { x with lost := x.lost || (b.untaken h).any discard }

/-- R89: a WHOLE holder that lost a bell is aborted. Answers the bells freed by it. -/
def Body.abort (b : Body) (h : Nat) : Body × List Nat :=
  let r := ((b.takeDiscards h).withdrawPlayer h).clearClaim h
  ((r.1.leavePerformance h .preempted).announceEnd h .preempted, r.2)

/-- R83: the player moves to the last place. -/
def Body.moveLast (b : Body) (p : Nat) : Body :=
  b.setClaims { b.claims with rotation := b.claims.rotation.filter (· != p) ++ [p] }

/-- R87, steps 3 and 4. -/
def Body.giveBells (now : Nat) (b : Body) (c : Nat) (g : List Nat) : Body :=
  let b := b.setClaims { b.claims with
    holders := g.foldl (fun l i => l.set i (some c)) b.claims.holders
    waiting := g.foldl (fun l i => l.modify i fun w => w.filter (· != c)) b.claims.waiting }
  let r := b.claim c
  b.setClaim c
    { r with
      state := if b.isWhole c || (b.bellsWaited c).isEmpty then .granted else .partGranted
      deadline := none
      grantInstant := some (r.grantInstant.getD now) }

/-- R87: a grant of bells g to claimant c. Answers the bells freed by the aborts of step 8. Within a step the
bells are taken in the order of g (the model's choice, log 51). -/
def Body.grant (now : Nat) (b : Body) (c : Nat) (g : List Nat) : Body × List Nat :=
  let losers := (List.range 8).filter fun h => b.isWhole h && g.any fun i => b.holder i == some h
  let b := g.foldl (fun b' i => if (b.holder i).isNone then b'.withdrawTest i else b') b
  let b := g.foldl (fun b' i => match b.holder i with
    | some h => b'.takeFrom h i
    | none => b') b
  let b := ((b.giveBells now c g).moveLast c).send (.grant c)
  let b := if c = 0 then g.foldl (fun b i => b.send (.holding i)) b else b
  losers.foldl (fun r h =>
    let a := r.1.abort h
    (a.1, r.2 ++ a.2)) (b, [])

/-! ### Release and re-examination -/

/-- The place of a player in the rotation order. -/
def Body.place (b : Body) (p : Nat) : Nat := b.claims.rotation.findIdx (· == p)

/-- R93: smaller priority number first, then nearer the front of the rotation order. -/
def Body.ahead (b : Body) (p q : Nat) : Bool :=
  decide (b.claimPriority p < b.claimPriority q) ||
    (b.claimPriority p == b.claimPriority q && decide (b.place p < b.place q))

def insertBy (before : Nat → Nat → Bool) (p : Nat) : List Nat → List Nat
  | [] => [p]
  | q :: rest => if before q p then q :: insertBy before p rest else p :: q :: rest

/-- R93: the claims waiting for any bell of f, in the order of the pass. -/
def Body.candidates (b : Body) (f : List Nat) : List Nat :=
  let waits := (List.range 8).filter fun p =>
    let r := b.claim p
    match r.state with
    | .pendingClaim => ((r.body.map (·.bells)).getD []).any f.contains
    | .partGranted => f.any fun i => (b.waitingOn i).contains p
    | _ => false
  waits.foldr (insertBy b.ahead) []

/-- R93: one candidate at its turn. -/
def Body.considerCandidate (now : Nat) (f : List Nat) (b : Body) (p : Nat) : Body × List Nat :=
  match (b.claim p).body with
  | none => (b, [])
  | some c =>
    match c.kind with
    | .whole =>
      if (b.claim p).state = .pendingClaim ∧ c.bells.all (b.canTake c) then b.grant now p c.bells
      else (b, [])
    | .partialClaim =>
      let g := f.filter fun i => (b.waitingOn i).contains p && (b.holder i).isNone
      if g.isEmpty then (b, []) else b.grant now p g

/-- R93: one pass. Answers the bells freed by the aborts of the pass. -/
def Body.pass (now : Nat) (b : Body) (f : List Nat) : Body × List Nat :=
  (b.candidates f).foldl (fun r p =>
    let a := Body.considerCandidate now f r.1 p
    (a.1, r.2 ++ a.2)) (b, [])

/-- R94: passes follow one another until a pass frees no bell. Each pass after the first needs an abort,
and there are eight players, so nine passes are enough. -/
def Body.reexamine (now : Nat) : Nat → Body → List Nat → Body
  | 0, b, _ => b
  | n + 1, b, f =>
    if f.isEmpty then b
    else
      let r := b.pass now f
      Body.reexamine now n r.1 r.2

def passes : Nat := 9

/-- R91: a release request. -/
def Body.release (now : Nat) (b : Body) (p : Nat) : Body :=
  if (b.claim p).state = .noClaim then b
  else
    let r := b.clearClaim p
    Body.reexamine now passes r.1 r.2

/-- R116: a player enters FREE. -/
def Body.enterFree (now : Nat) (b : Body) (p : Nat) (fate : Fate) : Body :=
  ((b.leavePerformance p fate).release now p).announceEnd p fate

/-! ### Making a claim -/

/-- R96: a claim is abandoned: its record becomes NONE and CLAIM-TIMEOUT is raised. -/
def Body.abandonClaim (b : Body) (p : Nat) : Body :=
  (b.setClaim p { b.claim p with state := .noClaim, deadline := none }).raise .claimTimeout

/-- A grant that gives no bell: the grant instant and the grant event alone (R84, R86). -/
def Body.grantNothing (now : Nat) (b : Body) (p : Nat) (state : ClaimState) : Body :=
  (b.setClaim p { b.claim p with state := state, grantInstant := some now }).send (.grant p)

/-- R85: a WHOLE claim at its making. -/
def Body.claimWhole (now : Nat) (b : Body) (p : Nat) (c : ClaimBody) : Body :=
  if c.bells.all (b.canTake c) then
    let r := b.grant now p c.bells
    Body.reexamine now passes r.1 r.2
  else
    let wait := c.waitLimit.getD 0
    if 0 < wait then
      b.setClaim p { b.claim p with state := .pendingClaim, deadline := some (now + 8000 * wait) }
    else (b.abandonClaim p).enterFree now p .claimTimeout

/-- R86: a PARTIAL claim at its making. -/
def Body.claimPartial (now : Nat) (b : Body) (p : Nat) (c : ClaimBody) : Body :=
  let g := c.bells.filter (b.canTake c)
  let rest := c.bells.filter fun i => !b.canTake c i
  let b := rest.foldl (fun b i => b.joinWaiting p i) b
  if g.isEmpty then b.grantNothing now p .partGranted
  else
    let r := b.grant now p g
    Body.reexamine now passes r.1 r.2

/-- R84: a claim is made. -/
def Body.makeClaim (now : Nat) (b : Body) (p : Nat) (c : ClaimBody) : Body :=
  let b := b.setClaim p
    { body := some c, deadline := none, claimInstant := some now, grantInstant := none,
      state := .noClaim }
  if c.bells.isEmpty then b.grantNothing now p .granted
  else
    match c.kind with
    | .whole => b.claimWhole now p c
    | .partialClaim => b.claimPartial now p c

end Sys2Proof.Machine
end

