-- ==== Sys2Proof/Machine/PlayerBank.lean ====
section
/-! DEFINITION. The Player Bank: launch, the grant event, generation, admission results, draining and
removal events (06_the_player_bank.md). -/

namespace Sys2Proof.Machine

/-! ### Launch -/

/-- R103: what is to be performed. The tempo of a tune is a tick period, absent where the slot has no
default tempo to give (R148). -/
inductive Piece where
  | tune (slot : Nat) (map : MapId) (transposition forceOffset : Int) (tick : Option Nat)
      (repeatCount : Nat)
  | toll (toll : Toll)
  | console (map : MapId)
  deriving DecidableEq, Repr

/-- R103: a launch request. -/
structure Launch where
  player     : Nat
  origin     : Launcher
  piece      : Piece
  anchor     : Option Nat
  claimKind  : ClaimKind
  priority   : Nat
  preemptive : Bool
  waitLimit  : Nat
  policy     : Policy
  slack      : Nat
  notice     : Bool
  lateStart  : Bool
  deriving DecidableEq, Repr

inductive LaunchResult where
  | accepted | noPlayer | noTune
  deriving DecidableEq, Repr

/-- R104: the claim set of these pitches, each bell once, in rising order. -/
def Env.claimSet (e : Env) (m : MapId) (pitches : List Int) : List Nat :=
  let taken := pitches.filterMap fun p =>
    if 0 ≤ p ∧ p ≤ 95 then e.claimedBell m p.toNat else none
  (List.range 56).filter taken.contains

/-- R104. -/
def Body.launchSet (e : Env) (b : Body) : Piece → List Nat
  | .tune slot m transposition _ _ _ =>
    e.claimSet m (((b.slot slot).pitches.getD []).map fun p => (p : Int) + transposition)
  | .toll t => [t.bell]
  | .console m => e.claimSet m ((List.range 96).map fun p => (p : Int))

/-- R103, steps 1 to 3 and 5: the performance as written by a launch. The model's choices: a toll and the
console have 0 passes remaining (log 52), and the next sounding instant is absent until the first grant
(log 53). -/
def Launch.performance (r : Launch) : Performance :=
  let blank : Performance :=
    { origin := r.origin, mode := .live, slot := none, map := none, transposition := 0,
      forceOffset := 0, tickPeriod := none, passesRemaining := 0, passNumber := 0, recordIndex := 0,
      tickPosition := 0, toll := none, strokeIndex := 0, anchor := r.anchor, nextSounding := none,
      claimKind := r.claimKind, priority := r.priority, preemptive := r.preemptive,
      waitLimit := if r.claimKind = .whole then some r.waitLimit else none, policy := r.policy,
      slack := r.slack }
  match r.piece with
  | .tune slot m transposition forceOffset tick repeatCount =>
    { blank with mode := if repeatCount = 0 then .single else .repeated, slot := some slot,
                 map := some m, transposition := transposition, forceOffset := forceOffset,
                 tickPeriod := tick, passesRemaining := repeatCount }
  | .toll t => { blank with mode := .toll, toll := some t }
  | .console m => { blank with map := some m }

def Launch.player' (r : Launch) : Player :=
  { Player.fresh with state := .claiming, generation := .stalled, perf := some r.performance,
                      noticeOnEnd := r.notice, lateStart := r.lateStart }

/-- R103: the checks of a launch. -/
def Body.launchRefusal (b : Body) (r : Launch) : Option LaunchResult :=
  if (b.player r.player).state ≠ .free then some .noPlayer
  else match r.piece with
    | .tune slot _ _ _ _ _ => if (b.slot slot).state ≠ .ready then some .noTune else none
    | _ => none

/-- R103: a launch request is refused, or written into the player, which then claims (R105). -/
def Body.launch (e : Env) (b : Body) (r : Launch) : Body × LaunchResult :=
  match b.launchRefusal r with
  | some x => (b, x)
  | none =>
    let set := b.launchSet e r.piece
    let b := b.setPlayer r.player r.player'
    let b := match r.piece with
      | .tune slot _ _ _ _ _ => b.setSlot slot { b.slot slot with users := (b.slot slot).users + 1 }
      | _ => b
    (b.makeClaim e.now r.player
      { bells := set, kind := r.claimKind, priority := r.priority, preemptive := r.preemptive,
        waitLimit := if r.claimKind = .whole then some r.waitLimit else none },
     .accepted)

/-! ### Draining and the end -/

/-- R117: the outcome of a drain. -/
def drainFate (p : Nat) (x : Player) : Fate :=
  if p = 0 ∧ x.closeCause = some .linkLost then .linkLost
  else if x.lost then .completedPartial else .completed

/-- R115, R118: nothing of a player is queued and every removal event of its strikes is taken. A player does not
drain to its end before the event of its last strike is taken, so that a strike lost on insertion makes its outcome
COMPLETED-PARTIAL (R71, R75, log 25). -/
abbrev Body.drained (b : Body) (p : Nat) : Prop := b.queuedCount p = 0 ∧ b.untaken p = []

/-- R115: a player becomes DRAINING, and enters FREE at once if it is drained. Generation is DONE from
here on with no wake instant. Of player 0, whose generation a launch sets RUNNING, the rules name DONE only at
FREE (R106, R115, R116): that it is DONE while it drains is the model's choice (log 55). -/
def Body.drain (now : Nat) (b : Body) (p : Nat) : Body :=
  let b := b.modPlayer p fun x =>
    { x with state := .draining, generation := .done, stallReason := none, wake := none }
  if b.drained p then b.enterFree now p (drainFate p (b.player p)) else b

/-! ### Generation -/

/-- R110: the record of a slot. -/
def Env.record (e : Env) (x : Slot) (i : Nat) : NoteRecord := noteOf (e.memory.recordBytes x.blocks i)

/-- R107: the written sounding instant of the record at the record index. -/
def Body.nextTuneInstant (e : Env) (b : Body) (f : Performance) : Nat :=
  let slot := b.slot (f.slot.getD 0)
  f.anchor.getD 0 +
    (f.tickPosition + (e.record slot f.recordIndex).delay) * f.tickPeriod.getD 0

/-- R106, R107, R112: the next sounding instant of a performance as it stands. -/
def Body.nextInstant (e : Env) (b : Body) (f : Performance) : Nat :=
  match f.toll with
  | some t => f.anchor.getD 0 + f.strokeIndex * (8 * t.interval)
  | none => b.nextTuneInstant e f

/-- R108: why generation may not go on, the first failing condition in the order of the table. -/
def Body.stallReason (e : Env) (b : Body) (p : Nat) (next : Nat) : Option StallReason :=
  if e.now + b.sched.horizon < next then some .horizon
  else if b.quota p ≤ b.queuedCount p then some .quota
  else if 224 ≤ b.tuneTotal then some .cap
  else none

/-- R110, R112: a note or stroke that finds no bell. -/
def Player.mute (x : Player) : Player := { x with muted := x.muted + 1, lost := true }

/-- R113: an admission result counted in the player's context. -/
def Player.countAdmission (x : Player) : Admission → Player
  | .admitted _ _ deferral _ =>
    { x with admitted := x.admitted + 1,
             deferred := if deferral = 0 then x.deferred else x.deferred + 1 }
  | .refused .recovery => { x with refusedRecovery := x.refusedRecovery + 1, lost := true }
  | .refused .late => { x with refusedLate := x.refusedLate + 1, lost := true }
  | .refused .unavailable => { x with refusedUnavailable := x.refusedUnavailable + 1, lost := true }
  | .refused .full => { x with refusedFull := x.refusedFull + 1, lost := true }

/-- A player asks for admission and counts the result (R110, R112, R121). -/
def Body.askAdmission (e : Env) (b : Body) (p : Nat) (r : Request) : Body × Admission :=
  let a := b.decideAdmission e r
  (a.1.modPlayer p fun x => x.countAdmission a.2, a.2)

/-- R110, step 5: the force, clamped to 1 to 15. -/
def clampForce (f : Int) : Nat := (max 1 (min 15 f)).toNat

/-- R110, steps 2 to 5: what a record just read asks for. -/
def Body.strikeRecord (e : Env) (b : Body) (p : Nat) (f : Performance) (note : NoteRecord)
    (sounding : Nat) : Body :=
  if note.force = 0 then b
  else
    let pitch := (note.pitch : Int) + f.transposition
    let bell :=
      if 0 ≤ pitch ∧ pitch ≤ 95 then b.lookup e p (f.map.getD .a) pitch.toNat else none
    match bell with
    | none => b.modPlayer p Player.mute
    | some i =>
      (b.askAdmission e p
        { bell := i, force := clampForce ((note.force : Int) + f.forceOffset), sounding := sounding,
          origin := .tune, player := some p,
          tunePosition := some (f.passNumber.toNat, f.recordIndex), policy := f.policy,
          slack := 8 * f.slack }).1

def Body.setPerf (b : Body) (p : Nat) (f : Performance) : Body :=
  b.modPlayer p fun x => { x with perf := some f }

/-- R114: the pass ends. Where no further pass begins the next sounding instant keeps its last value (the
model's choice, log 47). -/
def Body.passEnd (e : Env) (b : Body) (p : Nat) (f : Performance) : Body :=
  let slot := b.slot (f.slot.getD 0)
  if !(b.player p).finish && 0 < f.passesRemaining then
    let span := slot.ticks.getD 0 + slot.passGap.getD 0
    let f := { f with
      anchor := some (f.anchor.getD 0 + (if span = 0 then 1 else span) * f.tickPeriod.getD 0)
      passesRemaining :=
        if f.passesRemaining = 255 then 255 else f.passesRemaining - 1
      passNumber := f.passNumber + 1
      recordIndex := 0
      tickPosition := 0 }
    (b.setPerf p { f with nextSounding := some (b.nextTuneInstant e f) }).sendFirst (.decide p)
  else (b.setPerf p f).drain e.now p

/-- R110: a tune player reads the record at its record index. -/
def Body.readRecord (e : Env) (b : Body) (p : Nat) (f : Performance) : Body :=
  let slot := b.slot (f.slot.getD 0)
  let note := e.record slot f.recordIndex
  let sounding := b.nextTuneInstant e f
  let b := b.modPlayer p fun x => { x with recordsRead := x.recordsRead + 1 }
  let b := b.strikeRecord e p f note sounding
  let f := { f with tickPosition := f.tickPosition + note.delay, recordIndex := f.recordIndex + 1 }
  if slot.length.getD 0 ≤ f.recordIndex then b.passEnd e p f
  else (b.setPerf p { f with nextSounding := some (b.nextTuneInstant e f) }).sendFirst (.decide p)

/-- R112: a toll player generates its next stroke. After the last one the next sounding instant keeps its
last value (log 47). -/
def Body.strokeToll (e : Env) (b : Body) (p : Nat) (f : Performance) (t : Toll) : Body :=
  let sounding := b.nextInstant e f
  let b := b.modPlayer p fun x => { x with recordsRead := x.recordsRead + 1 }
  let b :=
    if (b.strikable e p (some t.bell)).isSome then
      (b.askAdmission e p
        { bell := t.bell, force := t.force, sounding := sounding, origin := .toll,
          player := some p, tunePosition := none, policy := f.policy, slack := 8 * f.slack }).1
    else b.modPlayer p Player.mute
  let f := { f with strokeIndex := f.strokeIndex + 1 }
  if t.strokes ≤ f.strokeIndex ∨ (b.player p).finish then (b.setPerf p f).drain e.now p
  else (b.setPerf p { f with nextSounding := some (b.nextInstant e f) }).sendFirst (.decide p)

/-- R108: a generation decision: one record or stroke, after which the decision is taken again, or a
stall. -/
def Body.takeDecision (e : Env) (b : Body) (p : Nat) : Body :=
  let x := b.player p
  match x.perf with
  | none => b
  | some f =>
    if p = 0 ∨ x.state ≠ .playing ∨ x.generation = .done then b
    else
      let next := f.nextSounding.getD 0
      match b.stallReason e p next with
      | some reason =>
        b.setPlayer p { x with generation := .stalled, stallReason := some reason,
                               wake := if reason = .horizon then some (next - b.sched.horizon)
                                       else none }
      | none =>
        let b := b.setPlayer p { x with generation := .running, stallReason := none, wake := none }
        match f.toll with
        | some t => b.strokeToll e p f t
        | none => b.readRecord e p f

/-! ### The grant event -/

/-- R98: the late-start comparison: the anchor, and whether it moved. -/
def lateStartAnchor (anchor grantInstant margin : Nat) : Nat × Bool :=
  if (anchor : Int) - (margin : Int) < (grantInstant : Int) then (grantInstant + margin, true)
  else (anchor, false)

/-- R106: the first grant event of a CLAIMING player. Later ones change no field of the context. -/
def Body.takeGrant (e : Env) (b : Body) (p : Nat) : Body :=
  let x := b.player p
  match x.perf with
  | none => b
  | some f =>
    if x.state ≠ .claiming then b
    else if p = 0 then b.setPlayer p { x with state := .playing, generation := .running }
    else
      let late := lateStartAnchor (f.anchor.getD 0) ((b.claim p).grantInstant.getD e.now)
        (8 * b.cal.margin)
      let f := { f with anchor := some late.1 }
      let f := { f with nextSounding := some (b.nextInstant e f) }
      let x := { x with state := .playing, generation := .running, perf := some f,
                        lateStart := x.lateStart || late.2 }
      let b := b.setPlayer p x
      if x.finish ∧ f.toll.isSome then b.drain e.now p else b.sendFirst (.decide p)

/-! ### Removal events -/

/-- R109: a tune player, other than the one named, that is stalled on CAP. -/
def Body.capStalled (b : Body) (p q : Nat) : Bool :=
  let x := b.player q
  q != 0 && q != p && x.state == .playing && x.generation == .stalled &&
    x.stallReason == some .cap

/-- R109, R118: the players that take a generation decision at a removal event of player p. -/
def Body.wokenBy (b : Body) (p : Nat) : List Nat :=
  (List.range 8).filter fun q =>
    (q == p && q != 0 && (b.player q).state == .playing && (b.player q).generation == .stalled) ||
      (p != 0 && b.capStalled p q)

/-- R118: a removal event is taken. A DRAINING player enters FREE at the last event that leaves it nothing
queued (log 25). The decisions that follow read the tune total as it then stands (R108), not the one the
event carries. -/
def Body.takeRemoval (e : Env) (b : Body) (p : Nat) (way : Way) (queued : Nat) : Body :=
  let x := b.player p
  let b := if (x.state = .playing ∨ x.state = .draining) ∧ way ≠ .fired then
      b.setPlayer p { x with lost := true } else b
  let b := if x.state = .draining ∧ queued = 0 ∧ b.drained p then
      b.enterFree e.now p (drainFate p (b.player p)) else b
  b.sendFree ((b.wokenBy p).map .decide)

/-- R79, R109: the settings event: every stalled tune or toll player takes its decision again. -/
def Body.settingsEvent (b : Body) : Body :=
  b.sendFree (((List.range 8).filter fun q =>
    q != 0 && (b.player q).state == .playing && (b.player q).generation == .stalled).map .decide)

end Sys2Proof.Machine
end

