-- ==== Sys2Proof/Machine/TowerClock.lean ====
section
/-! DEFINITION. Tower Time: its running, its slew and its rollover (R2, R3, R10, R13), and what a telegram
byte or a telegram does (R6, R206). -/

namespace Sys2Proof.Machine

def dayLength : Nat := 86400000

/-- R2: the full time. -/
def TowerTime.full (t : TowerTime) : Nat := t.day * dayLength + t.ms

def Trigger.full (t : Trigger) : Nat := t.day * dayLength + t.ms

/-- R2: day-ms advances by 1, rolling over at midnight. -/
def TowerTime.nextMs (t : TowerTime) : TowerTime :=
  if t.ms + 1 < dayLength then { t with ms := t.ms + 1 }
  else { day := (t.day + 1) % 65536, weekday := (t.weekday + 1) % 7, ms := 0 }

/-- R13: the second of day-ms changes between two Tower Times. -/
def TowerTime.secondChanges (t u : TowerTime) : Bool := t.ms / 1000 != u.ms / 1000

/-- R2, R10, R13: Tower Time advances by one millisecond. A pending load is told of a whole second, the
Calendar of a wrap of the day count (log 15). -/
def TimeBase.addMs (t : TimeBase) : TimeBase :=
  match t.tower with
  | none => t
  | some w =>
    let w' := w.nextMs
    { t with
      tower := some w'
      wholeSecond := t.wholeSecond || (t.pendingLoad.isSome && w.secondChanges w')
      dayWrapped := t.dayWrapped || decide (w'.day < w.day) }

/-- R2: one eighth of Tower Time. A withheld millisecond is given up where the day-ms would advance
(R10, log 14). -/
def TimeBase.towerTick (t : TimeBase) : TimeBase :=
  match t.tower with
  | none => t
  | some _ =>
    if t.phase < 7 then { t with phase := t.phase + 1 }
    else if t.withhold then { t with phase := 0, withhold := false }
    else { t with phase := 0 }.addMs

/-- R1. -/
def maxRunTime : Nat := 281474976710655

/-- R1, R2: one eighth passes. -/
def TimeBase.tick (t : TimeBase) : TimeBase :=
  { t.towerTick with runTime := min maxRunTime (t.runTime + 1) }

/-- R17, R199: one eighth passes while RST holds the part: Run Time stays 0 and no slew is applied. -/
def TimeBase.heldTick (t : TimeBase) : TimeBase :=
  { ({ t with withhold := false } : TimeBase).towerTick with withhold := t.withhold }

/-- R10: the end of a slew interval: one millisecond of the correction is applied. -/
def TimeBase.slewEnd (t : TimeBase) : TimeBase :=
  let t := { t with slewStart := t.slewStart + 512 }
  if 0 < t.slew then { t with slew := t.slew - 1 }.addMs
  else { t with slew := t.slew + 1, withhold := true }

/-- R3: the Run Time that corresponds to a full time; below 0 where it lies before Run Time 0. -/
def TimeBase.correspond (t : TimeBase) (w : TowerTime) (full : Nat) : Int :=
  (t.runTime : Int) - t.phase + 8 * ((full : Int) - w.full)

/-- R16: the offset of R9, in ms. -/
def TowerTime.offset (held present : TowerTime) : Int := (held.full : Int) - present.full

/-- R6: a failed check. -/
def TimeBase.badTelegramTaken (t : TimeBase) : TimeBase :=
  { t with badTelegram := t.badTelegram + 1, held := none, rx := [] }

/-- R6: a whole telegram is judged. -/
def TimeBase.judgeTelegram (t : TimeBase) (bytes : List Byte) : TimeBase :=
  match readTelegram bytes with
  | some w =>
    { t with telegrams := t.telegrams + 1, held := some { time := w, arrival := t.runTime }, rx := [] }
  | none => t.badTelegramTaken

/-- R206: a byte on the telegram input. -/
def TimeBase.telegramByte (t : TimeBase) (x : Byte) : TimeBase :=
  match t.rx with
  | [] =>
    if x = 165 then { t with rx := [x], rxLast := t.runTime }
    else if x = 255 then t
    else t.badTelegramTaken
  | y :: rest =>
    let got := (y :: rest) ++ [x]
    if got.length = 9 then t.judgeTelegram got else { t with rx := got, rxLast := t.runTime }

end Sys2Proof.Machine
end

