-- ==== Sys2Proof/Machine/CalendarWork.lean ====
section
/-! DEFINITION. The Performance Calendar: occurrences, launching, and changes of time (R144 to R154). -/

namespace Sys2Proof.Machine

/-! ### Occurrences -/

/-- R144: the day-ms of a time of day. -/
def clockMs (hour minute second : Nat) : Nat := (hour * 3600 + minute * 60 + second) * 1000

/-- R144: the triggers of a recurrence on a day of the given weekday, in order. -/
def Recurrence.triggersOn (r : Recurrence) (day weekday : Nat) : List Trigger :=
  match r.kind with
  | .once => if day = r.day then [{ day := day, ms := clockMs r.hour r.minute r.second }] else []
  | .daily =>
    if r.mask.testBit weekday then [{ day := day, ms := clockMs r.hour r.minute r.second }] else []
  | .hourly =>
    if r.mask.testBit weekday then
      ((List.range 24).filter fun h => decide (r.firstHour ≤ h ∧ h ≤ r.lastHour)).map fun h =>
        { day := day, ms := clockMs h r.minute r.second }
    else []

/-- R144: the weekday of a day, found from the present Tower Time. -/
def TowerTime.weekdayOf (t : TowerTime) (day : Nat) : Nat :=
  (((t.weekday : Int) + day - t.day) % 7).toNat

/-- The days a recurrence is looked for on, from a day on: a ONCE entry's own, or a week and a day.
There is no day above 65,535 (log 42). -/
def Recurrence.days (r : Recurrence) (first : Nat) : List Nat :=
  (match r.kind with
   | .once => [r.day]
   | _ => (List.range 8).map (first + ·)).filter (· ≤ 65535)

/-- The earliest occurrence whose trigger is strictly later than this full time. -/
def Recurrence.firstAfter (r : Recurrence) (t : TowerTime) (bound : Nat) : Option Trigger :=
  ((r.days (bound / dayLength)).flatMap fun d => r.triggersOn d (t.weekdayOf d)).find?
    fun g => decide (bound < g.full)

/-- R146: the trigger must be later than the present Tower Time and the last fired occurrence. -/
def Entry.bound (x : Entry) (t : TowerTime) : Nat :=
  max t.full ((x.lastFired.map (·.full)).getD 0)

/-- R146. -/
def Entry.nextOccurrence (x : Entry) (t : TowerTime) : Option Trigger :=
  match x.fields with
  | none => none
  | some f => if x.enabled then f.recurrence.firstAfter t (x.bound t) else none

/-- R146, R150, R198: absent in UNSET, and while the configuration is loading. -/
def Body.nextOf (e : Env) (b : Body) (x : Entry) : Option Trigger :=
  if b.port.loading then none else e.time.tower.bind x.nextOccurrence

/-- R147: Tower Time has reached the launch instant. -/
def Body.reached (e : Env) (b : Body) (g : Trigger) : Bool :=
  match e.time.tower with
  | none => false
  | some t => decide (g.full ≤ t.full + b.cal.preRoll)

/-- The entry's next occurrence stands and its launch instant is reached. -/
def Body.occurrenceDue (e : Env) (b : Body) (n : Nat) : Bool :=
  !b.port.loading && ((b.entry n).next.any (b.reached e))

/-- R146, R147: the next occurrence is computed; one already reached is taken in this event. -/
def Body.recompute (e : Env) (b : Body) (n : Nat) : Body :=
  let b := b.setEntry n { b.entry n with next := b.nextOf e (b.entry n) }
  if b.occurrenceDue e n then b.send (.occurrence n) else b

/-- Every next occurrence is computed again; those already reached are taken in a free order (R147). -/
def Body.recomputeAll (e : Env) (b : Body) : Body :=
  let b := { b with cal := { b.cal with
    entries := b.cal.entries.map fun (x : Entry) => { x with next := b.nextOf e x } } }
  b.sendFree (((List.range 48).filter (b.occurrenceDue e)).map .occurrence)

/-! ### Launching -/

/-- R148, R122: HOUR12 for an hour. -/
def hour12 (h : Nat) : Nat := if h % 12 = 0 then 12 else h % 12

/-- R148: the lowest-numbered FREE player among 1 to 7. -/
def Body.anyPlayer (b : Body) : Option Nat :=
  ((List.range 7).map (· + 1)).find? fun p => (b.player p).state == .free

/-- R107, R148: the tick period of a tempo; DEFAULT is read from a READY slot. -/
def Body.tickPeriod (b : Body) (f : PerfFields) : Option Nat :=
  match f.tempoM with
  | some m => some (8 * m + f.tempoN)
  | none => if (b.slot f.slot).state = .ready then
      (b.slot f.slot).tempo.map fun t => 8 * t.1 + t.2 else none

/-- R122, R148: what the fields of a kind ask to be performed; `hour` resolves HOUR12. -/
def Body.piece (b : Body) (kind : EntryKind) (f : PerfFields) (hour : Nat) : Piece :=
  match kind with
  | .tune => .tune f.slot f.map f.transposition f.forceOffset (b.tickPeriod f) f.repeatCount
  | .toll => .toll { bell := f.tollBell, strokes := f.strokes.getD (hour12 hour),
                     interval := f.interval, force := f.tollForce }

/-- R148, step 3; R151: the anchor, and late start. -/
def Body.anchorFor (e : Env) (b : Body) (g : Trigger) (catchUp : Bool) : Nat × Bool :=
  let at' : Int := match e.time.tower with
    | some t => e.time.correspond t g.full
    | none => 0
  let restart := e.now + 8 * b.cal.margin
  if catchUp ∧ at' < restart then (restart, true) else (at'.toNat, false)

/-- An occurrence that ends at its taking. -/
def Entry.record (x : Entry) : Fate → Entry
  | .overlap => { x with lastOutcome := some .overlap, overlap := x.overlap + 1 }
  | .missed => { x with lastOutcome := some .missed, missed := x.missed + 1 }
  | f => { x with lastOutcome := some f, refused := x.refused + 1 }

/-- R148. -/
def Body.launchOccurrence (e : Env) (b : Body) (n : Nat) (f : EntryFields) (g : Trigger)
    (catchUp : Bool) : Body :=
  if (b.entry n).active.isSome then b.setEntry n ((b.entry n).record .overlap)
  else
    match f.player.or b.anyPlayer with
    | none => b.setEntry n ((b.entry n).record .noPlayer)
    | some p =>
      let a := b.anchorFor e g catchUp
      let r := b.launch e
        { player := p, origin := .entry n, piece := b.piece f.kind f.perf (g.ms / 3600000),
          anchor := some a.1, claimKind := f.perf.claimKind, priority := f.perf.priority,
          preemptive := f.perf.preemptive, waitLimit := f.perf.waitLimit, policy := f.perf.policy,
          slack := f.perf.slack, notice := f.notice, lateStart := a.2 }
      let x := r.1.entry n
      match r.2 with
      | .accepted => r.1.setEntry n { x with active := some p, launched := x.launched + 1 }
      | .noPlayer => r.1.setEntry n (x.record .noPlayer)
      | .noTune => r.1.setEntry n (x.record .noTune)

/-- R147: taking an occurrence, steps 1 to 4. -/
def Body.takeOccurrence (e : Env) (b : Body) (n : Nat) (g : Trigger) (catchUp : Bool) : Body :=
  match (b.entry n).fields with
  | none => b
  | some f =>
    let b := b.setEntry n { b.entry n with lastFired := some g }
    let b := b.launchOccurrence e n f g catchUp
    let b := if f.recurrence.kind = .once then b.setEntry n { b.entry n with enabled := false } else b
    b.recompute e n

/-- R147: the entry takes its next occurrence, if that is reached. -/
def Body.takeNext (e : Env) (b : Body) (n : Nat) : Body :=
  match (b.entry n).next with
  | some g => if b.occurrenceDue e n then b.takeOccurrence e n g false else b
  | none => b

/-- R149: the end event of a performance. -/
def Body.calendarEnd (b : Body) (n p : Nat) (fate : Fate) : Body :=
  if (b.entry n).active = some p then
    b.setEntry n { b.entry n with active := none, lastOutcome := some fate }
  else b

/-! ### Changes of time -/

/-- R151: the occurrences of an entry skipped by a forward step, in order of trigger. Weekdays are those
of the Tower Time after (log 41). -/
def Body.skipped (b : Body) (before after : TowerTime) (x : Entry) : List Trigger :=
  match x.fields with
  | none => []
  | some f =>
    if !x.enabled then []
    else
      let lo := before.full + b.cal.preRoll
      let hi := after.full + b.cal.preRoll
      let days := match f.recurrence.kind with
        | .once => [f.recurrence.day]
        | _ => (List.range (hi / dayLength + 1 - lo / dayLength)).map (lo / dayLength + ·)
      ((days.filter (· ≤ 65535)).flatMap fun d =>
          f.recurrence.triggersOn d (after.weekdayOf d)).filter fun g =>
        decide (lo < g.full ∧ g.full ≤ hi ∧ ∀ l ∈ x.lastFired, l.full < g.full)

/-- R151, R152: skipped occurrences recorded MISSED. A ONCE entry is left enabled (log 29). -/
def Entry.miss (x : Entry) (gs : List Trigger) : Entry :=
  gs.foldl (fun x g => { x.record .missed with lastFired := some g }) x

/-- R151, R152: a forward step. The latest skipped occurrence of each entry is taken late where the step is
within the catch-up limit; the entries are taken in a free order (log 29). -/
def Body.forwardStep (e : Env) (b : Body) (before after : TowerTime) : Body :=
  let limit := b.cal.catchUp * 1000
  let within := decide (after.full - before.full ≤ limit)
  let some' := (List.range 48).filter fun n => !(b.skipped before after (b.entry n)).isEmpty
  let late := if !within then [] else some'.filterMap fun n =>
    ((b.skipped before after (b.entry n)).getLast?).map fun g => (n, g)
  let b := { b with cal := { b.cal with
    entries := b.cal.entries.map fun (x : Entry) =>
      let gs := b.skipped before after x
      let x := x.miss (if within then gs.dropLast else gs)
      { x with next := b.nextOf e x } } }
  let b := if some'.isEmpty then b else b.raise .calendarMissed
  let due := ((List.range 48).filter fun n =>
    b.occurrenceDue e n && !late.any (fun l => l.1 == n)).map Msg.occurrence
  b.sendFree (due ++ late.map fun l => Msg.caughtUp l.1 l.2)

/-- R150 to R153: a time change reaches the Calendar; `e` has the Tower Time after. Ignored while the
configuration is loading (R198, log 28). -/
def Body.timeChange (e : Env) (b : Body) (before : Option TowerTime) (after : TowerTime) : Body :=
  if b.port.loading then b
  else
    match before with
    | none => b.recomputeAll e
    | some t =>
      if t.full < after.full then b.forwardStep e t after
      else if t.full = after.full then b
      else b.recomputeAll e

/-- R154: the day count has run from 65,535 to 0. -/
def Body.dayWrap (e : Env) (b : Body) : Body :=
  ({ b with cal := { b.cal with
    entries := b.cal.entries.map fun (x : Entry) => { x with lastFired := none } } }).recomputeAll e

end Sys2Proof.Machine
end

