-- ==== Sys2Proof/Machine/ConsoleDesk.lean ====
section
/-! DEFINITION. The Console Interface: arrivals, the head of the FIFO, keys, closing and the end of a session
(R161 to R171), and the bytes of the Console Link (R206). -/

namespace Sys2Proof.Machine

/-! ### The FIFO -/

/-- R162, R163: an event arrives; the head is considered. -/
def Body.consoleArrival (e : Env) (b : Body) (kind : ConsoleKind) : Body :=
  let c := b.con
  if c.fifo.length < 64 then
    let c := { c with fifo := c.fifo ++ [ConsoleEvent.mk kind e.now], events := c.events + 1 }
    (b.setCon { c with hold := c.holdAfterArrival }).send .considerHead
  else b.setCon { c with overrun := c.overrun + 1 }

/-- R162, R163: the head leaves the FIFO. -/
def Console.removeHead (c : Console) : Console :=
  let c := { c with fifo := c.fifo.tail, inFlight := false }
  { c with hold := c.holdAfterRemoval }

/-! ### Closing -/

/-- R169, R170, R121: a close by drain. -/
def Body.closeDrain (e : Env) (b : Body) (cause : CloseCause) : Body :=
  let b := b.setCon { b.con with closeCause := some cause, session := .closing }
  let b := (b.raise .consoleSession).modPlayer 0 fun x => { x with closeCause := some cause }
  (b.drain e.now 0).send .considerHead

/-- R169, R121: a cut. -/
def Body.closeCut (e : Env) (b : Body) : Body :=
  let b := b.setCon { b.con with closeCause := some .cut }
  (b.withdrawPlayer 0).enterFree e.now 0 .stopped

/-- R171: player 0's end event. -/
def Body.consoleEnd (b : Body) (fate : Fate) : Body :=
  if b.con.session = .off then b
  else
    let b := b.setCon { b.con with
      session := .off, lastOutcome := some fate, lamps := List.replicate 96 .lost,
      sentLamps := List.replicate 96 .lost }
    (b.raise .consoleSession).send .considerHead

/-! ### The head -/

/-- R165: whether an OPEN is accepted. -/
def Body.openAccepted (b : Body) : Bool :=
  b.con.session == .off && b.con.settings.enable && !b.port.loading

/-- R165, R121: the launch of an accepted OPEN. -/
def ConsoleSettings.launch (c : ConsoleSettings) : Launch :=
  { player := 0, origin := .console, piece := .console c.map, anchor := none,
    claimKind := .partialClaim, priority := c.priority, preemptive := c.preemptive, waitLimit := 0,
    policy := .defer, slack := c.slack, notice := false, lateStart := false }

/-- R165: an OPEN at the head is taken and removed. -/
def Body.takeOpen (e : Env) (b : Body) : Body :=
  let ok := b.openAccepted
  let b := b.setCon b.con.removeHead
  if ok then
    let b := (b.launch e b.con.settings.launch).1
    let b := b.setCon { b.con with session := .live, openInstant := some e.now, closeCause := none,
                                   sessions := b.con.sessions + 1 }
    (b.raise .consoleSession).recomputeLamps e fun _ => true
  else b.setCon { b.con with openRefused := b.con.openRefused + 1, refusedOwed := true }

/-- A KEY that is not played leaves the FIFO (R166, R167). -/
def Body.ignoreKey (b : Body) : Body :=
  let c := b.con.removeHead
  (b.setCon { c with ignoredKey := c.ignoredKey + 1 }).send .considerHead

/-- R165 to R167, R169: the head of the FIFO is considered. -/
def Body.considerHead (e : Env) (b : Body) : Body :=
  match b.con.fifo with
  | [] => b
  | h :: _ =>
    match h.kind with
    | .openSession => (b.takeOpen e).send .considerHead
    | .close =>
      let b := b.setCon b.con.removeHead
      if b.con.session = .live then b.closeDrain e .close else b.send .considerHead
    | .key _ _ =>
      if b.con.inFlight then b
      else if b.con.session = .live then
        if b.occupancy < 256 then b.setCon { b.con with inFlight := true } else b
      else b.ignoreKey

/-! ### A key at player 0 -/

/-- R168: the sounding instant. -/
def Body.keySounding (e : Env) (b : Body) (bell force arrival : Nat) : Nat :=
  match b.con.settings.latency with
  | .equal => arrival + 8 * b.con.settings.delay
  | .direct => arrival + (e.bell bell).lead (bandOf force)

/-- A key whose result is not FULL leaves the FIFO (R167). -/
def Body.keyDone (b : Body) : Body := (b.setCon b.con.removeHead).send .considerHead

/-- R121, R167: player 0 takes the key in flight. -/
def Body.playKey (e : Env) (b : Body) (pitch force arrival : Nat) : Body :=
  match (b.player 0).perf with
  | none => b.ignoreKey
  | some f =>
    if (b.player 0).state ≠ .playing then b.ignoreKey
    else
      let b := b.modPlayer 0 fun x => { x with recordsRead := x.recordsRead + 1 }
      match b.lookup e 0 (f.map.getD .a) pitch with
      | none => (b.modPlayer 0 Player.mute).keyDone
      | some i =>
        let r := b.askAdmission e 0
          { bell := i, force := force, sounding := b.keySounding e i force arrival,
            origin := .console, player := some 0, tunePosition := none, policy := .defer,
            slack := 8 * f.slack }
        if r.2 = .refused .full then r.1.setCon { r.1.con with inFlight := false } else r.1.keyDone

/-- R167: the offer of the key in flight is taken. -/
def Body.takeKey (e : Env) (b : Body) : Body :=
  match b.con.fifo with
  | [] => b
  | h :: _ =>
    match h.kind with
    | .key pitch force => if b.con.inFlight then b.playKey e pitch force h.arrival else b
    | _ => b

/-! ### Frames and bytes -/

/-- R206: how many bytes follow a kind byte, the check byte among them. -/
def bytesAfterKind (x : Byte) : Option Nat :=
  if x = 130 then some 3 else if x = 129 ∨ x = 131 ∨ x = 132 then some 1 else none

/-- R161: what a complete frame is. -/
inductive FrameEvent where
  | event (kind : ConsoleKind) | alive | malformed
  deriving DecidableEq, Repr

/-- R161: a KEY's pitch and force. -/
def keyEvent (pitch force : Byte) : FrameEvent :=
  if pitch.toNat ≤ 95 ∧ 1 ≤ force.toNat ∧ force.toNat ≤ 15 then
    .event (.key pitch.toNat force.toNat) else .malformed

/-- R161, R206: a complete frame is judged. -/
def judgeFrame (bytes : List Byte) : FrameEvent :=
  if consoleCheck bytes.dropLast ≠ bytes.getLastD 0 then .malformed
  else match byteAt bytes 0 with
    | 129 => .event .openSession
    | 130 => keyEvent (bytes.getD 1 0) (bytes.getD 2 0)
    | 131 => .event .close
    | 132 => .alive
    | _ => .malformed

def Console.malformedFrame (c : Console) : Console := { c with malformed := c.malformed + 1 }

/-- R161: what a frame's arrival does. -/
def Body.frameArrival (e : Env) (b : Body) : FrameEvent → Body
  | .event kind => b.consoleArrival e kind
  | .alive => b
  | .malformed => b.setCon b.con.malformedFrame

/-- R206: a kind byte begins a frame. An unknown one is counted MALFORMED at once, and the bytes with bit
7 clear that follow it belong to the dropped frame (log 16). -/
def Console.beginFrame (c : Console) (x : Byte) : Console :=
  match bytesAfterKind x with
  | some _ => { c with rx := [x], strayRun := false }
  | none => { c.malformedFrame with rx := [], strayRun := true }

/-- R170: every byte received is remembered by its instant. -/
def Body.linkByteSeen (e : Env) (b : Body) : Body := b.setCon { b.con with lastByte := some e.now }

/-- R206: a byte on the Console Link. -/
def Body.linkByte (e : Env) (b : Body) (x : Byte) : Body :=
  let b := b.linkByteSeen e
  let c := b.con
  match c.rx with
  | [] =>
    if 128 ≤ x.toNat then b.setCon (c.beginFrame x)
    else if c.strayRun then b
    else b.setCon { c.malformedFrame with strayRun := true }
  | kind :: rest =>
    if 128 ≤ x.toNat then b.setCon (c.malformedFrame.beginFrame x)
    else
      let got := kind :: rest ++ [x]
      if got.length = 1 + (bytesAfterKind kind).getD 0 then
        (b.setCon { c with rx := [] }).frameArrival e (judgeFrame got)
      else b.setCon { c with rx := got }

/-- A whole frame's bytes have been received: no frame is begun any more (log 18). -/
def Body.frameSeen (e : Env) (b : Body) : Body :=
  b.setCon { b.con with lastByte := some e.now, rx := [], strayRun := false }

end Sys2Proof.Machine
end

