-- ==== Sys2Proof/Machine/Cascade.lean ====
section
/-! DEFINITION. The events that blocks hand one another within a step are taken one after another until
none is left (log 6), and the console's transmitter begins what is owed (R173). -/

namespace Sys2Proof.Machine

/-- The occurrence of an entry, which is taken when the events of the one before are all taken (R147). -/
def Msg.isOccurrence : Msg → Bool
  | .occurrence _ => true
  | .caughtUp _ _ => true
  | _ => false

/-- One event handed from one block to another. -/
def Body.handle (e : Env) (b : Body) : Msg → Body
  | .removal p way queued _ => b.takeRemoval e p way queued
  | .hammerFree bell => b.takeHammerFree e bell
  | .grant p => b.takeGrant e p
  | .decide p => b.takeDecision e p
  | .holding bell => b.lampsOfBell e bell
  | .considerHead => b.considerHead e
  | .consoleEnd fate => b.consoleEnd fate
  | .calendarEnd n p fate => b.calendarEnd n p fate
  | .occurrence n =>
    if b.mail.all Msg.isOccurrence then b.takeNext e n else b.send (.occurrence n)
  | .caughtUp n g =>
    if b.mail.all Msg.isOccurrence then b.takeOccurrence e n g true else b.send (.caughtUp n g)

/-- Events are taken in turn until none is left; the first number bounds how many. -/
def Body.settleFor (e : Env) : Nat → Body → Body
  | 0, b => b
  | n + 1, b =>
    match b.mail with
    | [] => b
    | m :: rest => Body.settleFor e n (Body.handle e { b with mail := rest } m)

/-- More events than any step hands on (log 7). -/
def settleBound : Nat := 18446744073709551616

def Body.settle (e : Env) (b : Body) : Body := b.settleFor e settleBound

/-- R173: an idle transmitter begins an owed report. -/
def Body.transmit (b : Body) : Body := b.setCon b.con.transmit

/-- What every event that reaches several blocks ends with. -/
def Body.finish (e : Env) (b : Body) : Body := (b.settle e).transmit

def State.finish (s : State) : State := s.setBody (s.body.finish s.env)

/-- A change of the blocks of `Body`, and all that follows from it in the same event. -/
def State.act (s : State) (f : Env → Body → Body) : State := (s.setBody (f s.env s.body)).finish

end Sys2Proof.Machine
end

