-- ==== Sys2Proof/Machine/Resets.lean ====
section
/-! DEFINITION. The warm-reset values of every block (R17, R35, R55, R80, R101, R124, R137, R160, R176, R188,
R201) and the release from reset (R199). -/

namespace Sys2Proof.Machine

/-- R17. The instant of the last mark is that of a mark at Run Time 0 in LOCKED (R5). -/
def TimeBase.warm (t : TimeBase) : TimeBase :=
  { t with runTime := 0, slewStart := 0,
           lastMark := if t.clock = .locked then some 0 else none,
           held := none, rx := [], rxLast := 0, pendingLoad := none, wholeSecond := false,
           loadStatus := .noLoad, snapshot := none }

/-- R55. -/
def Hammer.warm (r : Bell) : Hammer :=
  if r.present && r.calibrated && decide (0 < r.recovery) then .settling r.recovery
  else .rest none

/-- R80. -/
def Scheduler.warm (c : Scheduler) (access : Bool) : Scheduler :=
  { Scheduler.fresh access with quotas := c.quotas, horizon := c.horizon, lateLimit := c.lateLimit }

/-- R124. -/
def Player.warm (x : Player) : Player :=
  { x with state := .free, generation := .done, stallReason := none, wake := none,
           lastOutcome := if x.state = .free then x.lastOutcome else some .reset }

/-- R137. -/
def Slot.warm (x : Slot) : Slot :=
  if x.state = .writing then Slot.emptySlot else { x with users := 0 }

/-- R160. The next occurrence is computed at the release. -/
def Entry.warm (x : Entry) : Entry :=
  if x.active.isSome then { x with active := none, lastOutcome := some .reset } else x

/-- R176. The owed STATE OFF report is begun at once (log 32). -/
def Console.warm (c : Console) : Console :=
  let outcome := if c.session = .off then c.lastOutcome else some .reset
  { Console.fresh with
    lastOutcome := outcome, settings := c.settings, events := c.events, malformed := c.malformed,
    overrun := c.overrun, ignoredKey := c.ignoredKey, openRefused := c.openRefused,
    linkLost := c.linkLost, sessions := c.sessions, sending := some (.session .off outcome) }

/-- R188. -/
def Board.warm (x : Board) : Board :=
  { x with online := false, missedRun := 0, replyRun := 0, faults := 0 }

/-- R188. -/
def Bus.warm (u : Bus) (boards : Nat) (access : Bool) : Bus :=
  { u with sendList := [], line := .idle, consecutive := 0, waitingPoll := List.replicate 7 false,
           pointer := boards, nextRound := 0, access := access, boards := u.boards.map Board.warm }

/-- R201, without the warm reset counter and the cause, which are written at the release. -/
def Port.warm (p : Port) : Port := { p with response := none, pendingFlags := 0 }

def Body.warm (b : Body) (bells : List Bell) (access : Bool) : Body :=
  { b with
    hammers := bells.map Hammer.warm
    sched := b.sched.warm access
    claims := .fresh
    players := b.players.map Player.warm
    slots := b.slots.map Slot.warm
    cal := { b.cal with entries := b.cal.entries.map Entry.warm }
    con := b.con.warm
    bus := b.bus.warm b.port.boards access
    port := b.port.warm
    mail := [] }

/-- R199: every block takes its warm-reset values, the access states the BELFRY input's present value
(R80, R188). -/
def State.warm (s : State) : State :=
  { s with time := s.time.warm, bells := s.bells.map Bell.warmReset,
           body := s.body.warm s.bells s.belfry }

/-- R199, R160, R180: the release: the values taken from the BELFRY input, the cause and the counter, and
the Calendar's next occurrences. -/
def State.leaveReset (s : State) (cause : ResetCause) : State :=
  let p := { s.body.port with lastCause := cause, warmResets := s.body.port.warmResets + 1 }
  let b := { s.body with
    sched := { s.body.sched with access := s.belfry }
    bus := { s.body.bus with access := s.belfry }
    port := p }
  State.act
    { s with rst := { asserted := false, held := false, deferred := false }, body := b }
    (fun e b => b.recomputeAll e)

/-- R199: a warm reset deferred by the load is taken when the load ends, once, however often RST was asserted
and released before: that it is one reset and counted once is the model's choice (log 21). -/
def State.deferredReset (s : State) : State :=
  if s.rst.deferred then
    let s := s.warm
    if s.rst.asserted then { s with rst := { asserted := true, held := true, deferred := false } }
    else s.leaveReset .line
  else s

/-- R198: the load ends. -/
def State.loadEnd (s : State) : State :=
  (State.act { s with body := { s.body with port := { s.body.port with loading := false } } }
    (fun e b => b.recomputeAll e)).deferredReset

end Sys2Proof.Machine
end

