-- ==== Sys2Proof/Machine/TuneShelf.lean ====
section
/-! DEFINITION. The Tune Store: blocks, writing, closing and erasing (R126 to R133), shared by the commands
and the configuration load. -/

namespace Sys2Proof.Machine

/-- R126: the free set, in rising order. -/
def Body.freeBlocks (b : Body) : List Nat :=
  (List.range 256).filter fun k => !b.slots.any fun x => x.blocks.contains k

/-- R126: the whole number of blocks that covers a length. -/
def blocksFor (length : Nat) : Nat := (length + 63) / 64

/-- R129, R136: a slot given its blocks, length, tempo and gap. -/
def Body.allocate (b : Body) (o : OpenTune) : Body :=
  b.setSlot o.slot
    { state := .writing, length := some o.length, tempo := some (o.m, o.n), passGap := some o.gap,
      blocks := b.freeBlocks.take (blocksFor o.length), written := some 0, pitches := none,
      ticks := none, crc := none, users := 0 }

/-- R130: a slot is abandoned. -/
def Body.abandonSlot (b : Body) (n : Nat) : Body := b.setSlot n Slot.emptySlot

/-- The slot that is WRITING, other than the one named. -/
def Body.otherWriting (b : Body) (n : Nat) : Option Nat :=
  (List.range 64).find? fun k => k != n && (b.slot k).state == .writing

/-- R129: an accepted OPEN-TUNE. -/
def Body.openSlot (b : Body) (o : OpenTune) : Body :=
  let b := match b.otherWriting o.slot with
    | some k => b.abandonSlot k
    | none => b
  (b.setSlot o.slot Slot.emptySlot).allocate o

/-- R126, R209: the records of a slot, index 0 to length - 1. -/
def Memory.slotRecords (m : Memory) (x : Slot) : List (List Byte) :=
  (List.range (x.length.getD 0)).map (m.recordBytes x.blocks)

/-- R132: the CRC over the records. -/
def Memory.slotCrc (m : Memory) (x : Slot) : BitVec 16 := crc16 (m.slotRecords x).flatten

/-- R132: the pitches of the records whose force is 1 to 15, each once, in rising order. -/
def pitchSet (records : List (List Byte)) : List Nat :=
  (List.range 96).filter fun p =>
    records.any fun r => (noteOf r).pitch == p && (noteOf r).force != 0

/-- R132: the sum of the delays, rests included. -/
def totalTicks (records : List (List Byte)) : Nat := (records.map fun r => (noteOf r).delay).sum

/-- R132: an accepted close. -/
def Slot.closed (x : Slot) (records : List (List Byte)) (crc : BitVec 16) : Slot :=
  { x with state := .ready, written := none, pitches := some (pitchSet records),
           ticks := some (totalTicks records), crc := some crc, users := 0 }

end Sys2Proof.Machine
end

