-- ==== Sys2Proof/Machine/ConfigImage.lean ====
section
/-! DEFINITION. The configuration memory image: the header, and each section applied item by item (R196,
R197, R210, and R35, R142, R159, R136 for the items). A section's items answer how many were rejected. -/

namespace Sys2Proof.Machine

/-- R210: offset and length of each section. -/
def readDirectory (bytes : List Byte) : List (Nat × Nat) :=
  (List.range 4).map fun k => (longAt bytes (2 + 8 * k), longAt bytes (6 + 8 * k))

/-- R196, R210: a GOOD header. -/
def headerGood (bytes : List Byte) : Bool :=
  bytes.length == 36 && wordAt bytes 0 == 23121 &&
    decide ((crc16 (bytes.take 34)).toNat = wordAt bytes 34) &&
    (readDirectory bytes).all fun d => decide (0 < d.2)

/-- R197: the section has been read whole and its CRC matches. A section of one byte has no room for its CRC
and does not pass (the model's choice, log 50). -/
def sectionGood (length : Nat) (bytes : List Byte) : Bool :=
  bytes.length == length && decide (2 ≤ length) &&
    decide ((crc16 (bytes.take (length - 2))).toNat = wordAt bytes (length - 2))

/-! ### BELLS -/

/-- R35: the calibration of the default record. -/
def defaultCalibration (placement : Option (Nat × Nat)) : Calibration :=
  { placement := placement, floor := 80, ceiling := 2400, depth := 4, softSeed := 800,
    loudSeed := 400, window := 192, mask := 32, recovery := 800, p1 := 16, p15 := 96,
    missLimit := 3 }

/-- R210: one record of the section. -/
def readBellRecord (bytes : List Byte) : Option (Bool × Calibration) :=
  (readYesNo (byteAt bytes 0)).bind fun calibrated =>
  (parseCalibration bytes 1).map fun c => (calibrated, c)

/-- R35: a board of a present bell lies within the strap count. -/
def boardWithin (boards : Nat) (present : Bool) (c : Calibration) : Bool :=
  !present || c.placement.all fun x => decide (x.1 ≤ boards)

/-- R35, R20: the pair is held by another present bell; only lower-numbered ones at the load. -/
def State.pairHeld (s : State) (which : Nat → Bool) (placement : Option (Nat × Nat)) : Bool :=
  placement.isSome && (List.range 56).any fun j =>
    which j && (s.bell j).present && (s.bell j).placement == placement

/-- R35: the calibration a bell takes, and whether it is the default record. -/
def State.loadedRecord (s : State) (i : Nat) (item : Option (Bool × Calibration)) :
    (Bool × Calibration) × Bool :=
  let present := (s.bell i).present
  let usable := item.filter fun x => boardWithin s.body.port.boards present x.2
  let r := usable.getD (false, defaultCalibration (some (defaultPlacement i)))
  if present && s.pairHeld (fun j => decide (j < i)) r.2.placement then
    ((false, defaultCalibration none), true)
  else (r, usable.isNone)

/-- R35, R55: one bell's record is applied. The board online flag is that of its board (log 31), and no
for a bell that is not present (the model's choice, log 45). -/
def State.loadBell (s : State) (i : Nat) (item : Option (Bool × Calibration)) : State × Nat :=
  let r := s.loadedRecord i item
  let old := s.bell i
  let new := { old.calibrate r.1.2 with
    calibrated := r.1.1
    boardOnline := old.present && s.body.placedOnline r.1.2.placement }
  let s := s.writeBell i new
  let s :=
    if new.present && new.calibrated && decide (0 < new.recovery) then
      s.setBody (s.body.setHammer i (.settling (s.now + new.recovery)))
    else s
  (s, if r.2 then 1 else 0)

def State.loadBells (s : State) (items : List Byte) : State × Nat :=
  (List.range 56).foldl (fun a i =>
    let item := if 19 * i + 19 ≤ items.length then readBellRecord ((items.drop (19 * i)).take 19) else none
    let r := a.1.loadBell i item
    (r.1, a.2 + r.2)) (s, 0)

/-! ### MAPS -/

/-- R142: an entry of the section, or NONE and NONE, with whether it was rejected. -/
def loadMapEntry (items : List Byte) (k : Nat) : MapEntry × Nat :=
  match if 2 * k + 2 ≤ items.length then readMapEntry (byteAt items (2 * k)) (byteAt items (2 * k + 1))
        else none with
  | some x => (x, 0)
  | none => ({ primary := none, alternate := none }, 1)

def State.loadMaps (s : State) (items : List Byte) : State × Nat :=
  let all := (List.range 192).map (loadMapEntry items)
  ({ s with mapA := (all.take 96).map (·.1), mapB := (all.drop 96).map (·.1) },
   (all.map (·.2)).sum)

/-! ### CALENDAR -/

/-- R159, R210: the entries one after another, each with whether it was rejected; an entry that cannot be
completed leaves nothing for those after it. -/
def readEntries : Nat → List Byte → List (Entry × Nat)
  | 0, _ => []
  | n + 1, bytes =>
    match bytes with
    | [] => (Entry.cleared, 1) :: readEntries n []
    | x :: rest =>
      if x = 0 then (Entry.cleared, 0) :: readEntries n rest
      else if rest.length < 33 then (Entry.cleared, 1) :: readEntries n []
      else
        match parseEntryFields (rest.take 33) 0 with
        | some (enabled, f) =>
          ({ Entry.cleared with fields := some f, enabled := enabled }, 0) ::
            readEntries n (rest.drop 33)
        | none => (Entry.cleared, 1) :: readEntries n (rest.drop 33)

def State.loadCalendar (s : State) (items : List Byte) : State × Nat :=
  let all := readEntries 48 items
  (s.setBody { s.body with cal := { s.body.cal with entries := all.map (·.1) } },
   (all.map (·.2)).sum)

/-! ### TUNES -/

/-- R136: the checks of one slot of the section. -/
def Body.slotLoads (b : Body) (o : OpenTune) (named : List Nat) (crc : Nat)
    (records : List (List Byte)) : Bool :=
  o.inRange && !named.contains o.slot && decide (blocksFor o.length ≤ b.freeBlocks.length) &&
    records.all recordOk && decide ((crc16 records.flatten).toNat = crc)

/-- R136: a slot that passes is given its blocks and becomes READY. -/
def State.loadSlot (s : State) (o : OpenTune) (records : List (List Byte)) (crc : Nat) : State :=
  let b := s.body.allocate o
  let x := b.slot o.slot
  { s with memory := s.memory.writeRecords x.blocks 0 records,
           body := b.setSlot o.slot (x.closed records (BitVec.ofNat 16 crc)) }

/-- R136, R210: the slots one after another; `named` holds the slot numbers seen. -/
def State.loadSlots : Nat → List Byte → List Nat → State → State × Nat
  | 0, _, _, s => (s, 0)
  | n + 1, bytes, named, s =>
    let o : OpenTune := { slot := byteAt bytes 0, length := wordAt bytes 1, m := byteAt bytes 3,
                          n := byteAt bytes 4, gap := wordAt bytes 5 }
    let rest := bytes.drop 9
    if bytes.length < 9 ∨ rest.length < 3 * o.length then (s, n + 1)
    else
      let records := records3 (rest.take (3 * o.length))
      let ok := s.body.slotLoads o named (wordAt bytes 7) records
      let r := State.loadSlots n (rest.drop (3 * o.length)) (o.slot :: named)
        (if ok then s.loadSlot o records (wordAt bytes 7) else s)
      (r.1, r.2 + if ok then 0 else 1)

/-- R210: a slot count, then the slots. An empty section names none (log 30); a count above 64 is taken as
it stands (the model's choice, log 49). -/
def State.loadTunes (s : State) (items : List Byte) : State × Nat :=
  s.loadSlots (byteAt items 0) (items.drop 1) []

/-! ### Sections -/

/-- R197: the contents of section k are applied. -/
def State.applySection (s : State) (k : Nat) (items : List Byte) : State × Nat :=
  match k with
  | 0 => s.loadBells items
  | 1 => s.loadMaps items
  | 2 => s.loadCalendar items
  | _ => s.loadTunes items

/-- R197, R200: the result of section k is recorded, and CONFIG-ERROR raised unless it is LOADED. -/
def State.recordSection (s : State) (k : Nat) (result : SectionResult) (rejected : Nat) : State :=
  let p := s.body.port
  let p := { p with sections := p.sections.set k (result, rejected), nextSection := k + 1 }
  let s := s.setBody (s.body.setPort p)
  if result = .loaded then s else s.raise .configError

/-- R197: one section has been read, or the memory stopped acknowledging. -/
def State.sectionRead (s : State) (k : Nat) (read : Option (List Byte)) : State :=
  let length := (s.body.port.directory.getD k (0, 0)).2
  match read.filter (sectionGood length) with
  | none => s.recordSection k .defaults 0
  | some bytes =>
    let r := s.applySection k (bytes.take (length - 2))
    r.1.recordSection k (if r.2 = 0 then .loaded else .loadedWithErrors) r.2

/-- R196: the header has been read, or the memory did not acknowledge. -/
def State.headerRead (s : State) (read : Option (List Byte)) : State :=
  let p := s.body.port
  match read with
  | some bytes =>
    if headerGood bytes then
      s.setBody (s.body.setPort { p with header := .good, directory := readDirectory bytes,
                                         nextSection := 0 })
    else State.loadEnd ((s.setBody (s.body.setPort
      { p with header := .badHeader, sections := List.replicate 4 (.defaults, 0) })).raise .configError)
  | none => State.loadEnd ((s.setBody (s.body.setPort
      { p with header := .noMemory, sections := List.replicate 4 (.defaults, 0) })).raise .configError)

end Sys2Proof.Machine
end

