-- ==== Sys2Proof/Machine/Flight.lean ====
section
/-! DEFINITION. The Hammer Cycle's events (R38, R41 to R48) and the taking of a poll reply (R183 to R185). -/

namespace Sys2Proof.Machine

def State.hammer (s : State) (i : Nat) : Hammer := s.body.hammer i

def State.setHammer (s : State) (i : Nat) (h : Hammer) : State := s.setBody (s.body.setHammer i h)

/-! ### Moving through mask and settling -/

/-- R41, step 5: the state after a flight closed at `base`, by the record as it stands. -/
def State.leaveDrive (s : State) (i base : Nat) (h : Hammer) (mask : Nat) : State :=
  let maskEnd := base + mask
  let settleEnd := maskEnd + (s.bell i).recovery
  if s.now < maskEnd then s.setHammer i { h with state := .mask, timerEnd := some maskEnd }
  else if s.now < settleEnd then
    s.setHammer i { h with state := .settle, timerEnd := some settleEnd }
  else s.setBody (s.body.enterIdle i)

/-- The band of the cycle. -/
def Hammer.cycleBand (h : Hammer) : Band := h.band.getD .soft

/-- R38: a send completion is taken at a hammer in ORDERED; the actuation is counted. -/
def State.sendCompleted (s : State) (i : Nat) : State :=
  let h := s.hammer i
  if h.state = .ordered then
    let r := s.bell i
    let expiry := s.now + r.windowFor h.cycleBand + s.body.bus.allowance
    let s := s.setHammer i { h with state := .drive, send := some s.now, expiry := some expiry,
                                    timerEnd := some expiry }
    s.writeBell i { r with actuations := r.actuations + 1 }
  else s

/-- R42: the strike is presumed. -/
def State.presume (s : State) (i : Nat) : State :=
  let h := s.hammer i
  let r := s.bell i
  let h := { h with presumed := true, missBefore := some r.missRun }
  let s := (s.setHammer i h).writeBell i (r.presume r.boardOnline)
  s.leaveDrive i (h.expiry.getD s.now) h ((s.bell i).maskFor h.cycleBand)

/-- R47: the mask end. -/
def State.maskEnds (s : State) (i : Nat) : State :=
  let h := s.hammer i
  let recovery := (s.bell i).recovery
  if 0 < recovery then
    s.setHammer i { h with state := .settle, timerEnd := h.timerEnd.map (· + recovery) }
  else s.setBody (s.body.enterIdle i)

/-! ### Contact reports -/

/-- R40: the reconstructed contact instant, in DRIVE and MASK. -/
def Hammer.contactInstant (h : Hammer) (receipt age : Nat) : Nat := max (h.send.getD 0) (receipt - age)

/-- R41: a contact, with capture. -/
def State.takeContact (s : State) (i age : Nat) : State :=
  let h := s.hammer i
  let instant := h.contactInstant s.now age
  let h := { h with contact := some instant }
  let r := ((s.bell i).capture h.cycleBand (instant - h.send.getD 0)).contactAt instant
  let s := (s.setHammer i h).writeBell i r
  s.leaveDrive i instant h ((s.bell i).maskFor h.cycleBand)

/-- R44: a late contact. -/
def State.takeLateContact (s : State) (i age : Nat) : State :=
  let h := s.hammer i
  let instant := h.contactInstant s.now age
  (s.setHammer i { h with contact := some instant, presumed := false }).writeBell i
    ((s.bell i).lateContact (h.missBefore.getD 0) instant)

/-- R40: what a contact report is taken as; R45, R46: a bounce or a stray. -/
def State.contactReport (s : State) (i age : Nat) : State :=
  let h := s.hammer i
  let r := s.bell i
  match h.state with
  | .drive => s.takeContact i age
  | .mask =>
    if h.presumed then s.takeLateContact i age else s.writeBell i { r with bounces := r.bounces + 1 }
  | _ => s.writeBell i { r with strays := r.strays + 1 }

/-! ### The board record -/

def State.board (s : State) (n : Nat) : Board := s.body.board n

def State.setBoard (s : State) (n : Nat) (x : Board) : State := s.setBody (s.body.setBoard n x)

def Board.missed (x : Board) : Board :=
  { x with missedRun := min 255 (x.missedRun + 1), replyRun := 0 }

def Board.replied (x : Board) : Board :=
  { x with validReplies := x.validReplies + 1, replyRun := min 255 (x.replyRun + 1), missedRun := 0 }

/-- R185: ONLINE to OFFLINE. -/
def State.boardOffline (s : State) (n : Nat) : State :=
  let x := s.board n
  let s := s.setBoard n { x with online := false, wentOffline := x.wentOffline + 1 }
  let b := s.body.cancelOrders .offline (s.body.bus.sendList.filter fun o => o.board == n)
  ((s.setBody b).raise .boardOffline).boardEvent n false

/-- R185: OFFLINE to ONLINE. -/
def State.boardOnline (s : State) (n : Nat) : State :=
  ((s.setBoard n { s.board n with online := true }).raise .boardOnline).boardEvent n true

/-- R183, R185: a missed poll. -/
def State.missedPoll (s : State) (n : Nat) (nothing : Bool) : State :=
  let x := s.board n
  let x := if nothing then { x with noReply := x.noReply + 1 } else { x with badReply := x.badReply + 1 }
  let x := x.missed
  let s := s.setBoard n x
  if x.online ∧ x.missedRun = 8 then s.boardOffline n else s

/-- R184, step 1: a fault indication for each output of the board, the outputs taken in turn from 0 (the
model's choice, log 51). -/
def State.takeFaults (s : State) (n : Nat) (faults : Byte) : State :=
  (List.range 8).foldl (fun s k =>
    match s.bellAt n k with
    | some i => s.writeBell i ((s.bell i).faultIndication (faults.getLsbD k))
    | none => s) (s.setBoard n { s.board n with faults := faults })

/-- R184, step 2: one contact report. -/
def State.takeReport (s : State) (n hammer age : Nat) : State :=
  let x := s.board n
  let x := { x with reports := x.reports + 1 }
  match s.bellAt n hammer with
  | some i => (s.setBoard n x).contactReport i age
  | none => s.setBoard n { x with unplacedReports := x.unplacedReports + 1 }

/-- R184. -/
def State.takeContent (s : State) (n : Nat) (r : Reply) : State :=
  let s := r.reports.foldl (fun s c => s.takeReport n c.1 c.2) (s.takeFaults n r.faults)
  if r.overflow then s.setBoard n { s.board n with overflow := (s.board n).overflow + 1 } else s

/-- R183 to R185: a valid reply: the board record, then the content. -/
def State.takeReply (s : State) (n : Nat) (r : Reply) : State :=
  let x := (s.board n).replied
  let s := s.setBoard n x
  let s := if !x.online ∧ x.replyRun = 2 then s.boardOnline n else s
  s.takeContent n r

/-- R183: what was received in the window of a POLL of board n is judged. -/
def State.judgeWindow (s : State) (n : Nat) (received : List BusChar) : State :=
  match readReply n received with
  | some r => s.takeReply n r
  | none => s.missedPoll n received.isEmpty

/-- R177, R182: the line becomes IDLE and the next frame is chosen. -/
def Body.lineEnds (now : Nat) (b : Body) : Body :=
  (b.setBus { b.bus with line := .idle }).chooseFrame now

/-- R178: send completion of the order for this bell. -/
def State.orderSent (s : State) (bell : Nat) : State :=
  let u := s.body.bus
  let s := (s.setBody (s.body.setBus { u with
    sendList := u.sendList.filter (fun o => o.bell != bell)
    actuatesSent := u.actuatesSent + 1
    consecutive := u.consecutive + 1 })).sendCompleted bell
  s.setBody (s.body.lineEnds s.now)

end Sys2Proof.Machine
end

