-- ==== Sys2Proof/Machine/Desk.lean ====
section
/-! DEFINITION. What every command goes through: the hold of RST (R199), and the Schedule Port's taking of a
request and placing of a response (R189 to R192). -/

namespace Sys2Proof.Machine

abbrev Result := Host.Outcome State Fault Refusal

/-- R199: while RST holds the part no event reaches any block. -/
def State.running (s : State) (f : State → State) : Result :=
  .next (if s.rst.held then s else f s)

/-! ### Transactions -/

/-- R189, R203: how many bytes clock a response out. -/
def Response.size (r : Response) : Nat := r.payload.length + 4

/-- R189: a transaction in which this many bytes are clocked. A waiting response clocked out whole is
read; one that is not is discarded by an arriving request, and otherwise waits on. -/
def Port.transaction (p : Port) (clocked : Nat) (arrives : Bool) : Port :=
  match p.response with
  | none => p
  | some r =>
    if r.size ≤ clocked then { p with response := none }
    else if arrives then { p with response := none, discarded := p.discarded + 1 }
    else p

/-- R189: the first n bytes clocked out on SPDO in a transaction: the waiting response's frame from its first
byte, and the idle byte beyond its end or while none waits. -/
def Port.clockedOut (p : Port) (n : Nat) : List Byte :=
  let frame := (p.response.map Response.frame).getD []
  frame.take n ++ List.replicate (n - frame.length) idleByte

/-- R189, R199: in the hold of RST SPDO carries idle bytes. -/
def State.clockedOut (s : State) (n : Nat) : List Byte :=
  if s.rst.held then List.replicate n idleByte else s.body.port.clockedOut n

def State.setPort (s : State) (p : Port) : State := s.setBody (s.body.setPort p)

/-- R191: the response is placed. -/
def State.respond (s : State) (r : Response) : State :=
  s.setPort { s.body.port with response := some r }

/-- R190: a request that fails the frame check. -/
def State.badFrame (s : State) : State :=
  (s.setPort { s.body.port with badFrames := s.body.port.badFrames + 1 }).respond
    { status := .badFrame, payload := [] }

/-- R189, R190: a request of this many bytes arrives, and passes the frame check. -/
def State.arrive (s : State) (clocked : Nat) : State :=
  let p := s.body.port.transaction clocked true
  s.setPort { p with requests := p.requests + 1 }

/-- A refusal with an empty payload. -/
def Response.refuse (x : Status) : Response := { status := x, payload := [] }

def Response.done (payload : List Byte) : Response := { status := .ok, payload := payload }

/-- R191: the four steps for a command of the catalogue. A payload above 248 bytes has no frame (R203). -/
def State.request {α : Type} (s : State) (payload : List Byte) (parse : List Byte → Option α)
    (owner : State → α → State × Response) : Result :=
  s.running fun s =>
    if 248 < payload.length then
      (s.setPort (s.body.port.transaction (payload.length + 4) true)).badFrame
    else
      let s := s.arrive (payload.length + 4)
      if s.body.port.loading then s.respond (.refuse .starting)
      else
        match parse payload with
        | none => s.respond (.refuse .badOperand)
        | some x => (owner s x).1.respond (owner s x).2

/-- An owner that refuses changes nothing. -/
def State.refuse (s : State) (x : Status) : State × Response := (s, .refuse x)

def State.done (s : State) (payload : List Byte) : State × Response := (s, .done payload)

end Sys2Proof.Machine
end

