-- ==== Sys2Proof/Machine/Due.lean ====
section
/-! DEFINITION. Which of the events that time brings are due. A row whose event is not due has no effect
(log 4). -/

namespace Sys2Proof.Machine

/-- An instant that may be absent is reached. -/
def State.isReached (s : State) (x : Option Nat) : Bool := x.any fun t => decide (t ≤ s.now)

/-- R5. -/
def State.holdoverDue (s : State) : Bool := s.isReached s.time.holdoverDeadline

/-- R10. -/
def State.slewDue (s : State) : Bool :=
  s.time.slew != 0 && decide (s.time.slewStart + 512 ≤ s.now)

/-- R13. -/
def State.wholeSecondDue (s : State) : Bool := s.time.pendingLoad.isSome && s.time.wholeSecond

/-- R206. -/
def State.telegramDue (s : State) : Bool :=
  !s.time.rx.isEmpty && decide (s.time.rxLast + 161 ≤ s.now)

/-- R42, R47, R48: the timer end of a hammer in this state is reached. -/
def State.hammerDue (s : State) (x : HammerState) (i : Nat) : Bool :=
  (s.hammer i).state == x && s.isReached (s.hammer i).timerEnd

/-- R67. -/
def State.strikeDueAt (s : State) (position : Nat) : Bool :=
  s.body.sched.queue[position]?.any fun k => k.state == .queued && decide (k.fire ≤ s.now)

/-- R70. -/
def State.lateAt (s : State) (position : Nat) : Bool :=
  s.body.sched.queue[position]?.any (s.body.tooLate s.now)

/-- R177, R178: the eighth of an ACTUATE frame has ended; `cut` tells a frame cut off (R179). -/
def State.frameEnded (s : State) (cut : Bool) : Option Nat :=
  match s.body.bus.line with
  | .actuate bell ends c => if c = cut ∧ ends ≤ s.now then some bell else none
  | _ => none

/-- R177, R183. -/
def State.windowEnded (s : State) : Option Nat :=
  match s.body.bus.line with
  | .poll board ends => if ends ≤ s.now then some board else none
  | _ => none

/-- R181. -/
def State.roundDue (s : State) : Bool := decide (s.body.bus.nextRound ≤ s.now)

/-- R96. -/
def State.claimDue (s : State) (p : Nat) : Bool :=
  (s.body.claim p).state == .pendingClaim && s.isReached (s.body.claim p).deadline

/-- R109. -/
def State.wakeDue (s : State) (p : Nat) : Bool :=
  (s.body.player p).state == .playing && (s.body.player p).generation == .stalled &&
    s.isReached (s.body.player p).wake

/-- R170. -/
def State.linkLossDue (s : State) : Bool := s.isReached s.body.con.linkDeadline

/-- `c` where the condition holds. -/
def only (cond : Bool) (c : Instr) : List Instr := if cond then [c] else []

/-- Every event that is due. A poll window that ends without the sender's answer ends in silence
(log 19). -/
def State.dueEvents (s : State) : List Instr :=
  let bells := List.range 56
  let places := List.range s.body.occupancy
  let players := List.range 8
  only s.holdoverDue .holdoverDeadline ++ only s.slewDue .slewIntervalEnd ++
  only s.wholeSecondDue .pendingLoadWholeSecond ++ only s.time.dayWrapped .dayCountWrap ++
  only s.telegramDue .telegramByteTimeout ++
  (bells.filter (s.hammerDue .drive)).map .expiry ++
  (bells.filter (s.hammerDue .mask)).map .maskEnd ++
  (bells.filter (s.hammerDue .settle)).map .settleEnd ++
  (places.filter s.strikeDueAt).map .strikeDue ++ (places.filter s.lateAt).map .lateDiscard ++
  only (s.frameEnded false).isSome .sendCompletion ++
  only (s.frameEnded true).isSome .abortedFrameEnd ++
  only s.windowEnded.isSome (.pollWindowEnd []) ++ only s.roundDue .pollRound ++
  (players.filter s.claimDue).map .claimDeadline ++ (players.filter s.wakeDue).map .playerWake ++
  ((List.range 48).filter (s.body.occurrenceDue s.env)).map .launchInstant ++
  only s.body.con.inFlight .player0Key ++ only s.linkLossDue .linkLoss

/-- The step on an empty queue (log 2): an event that is due is put in the queue, a free value choosing
among several (log 3); when none is due an eighth passes. In the hold of RST only Tower Time runs. -/
def State.idle (s : State) : State :=
  if s.rst.held then s.setTime s.time.heldTick
  else
    match s.dueEvents with
    | [] => s.setTime s.time.tick
    | [c] => { s with pending := [c] }
    | c :: d :: rest =>
      let all := c :: d :: rest
      { s with pending := [all.getD (Config.freeChoice s.body.draws % all.length) c],
               body := { s.body with draws := s.body.draws + 1 } }

end Sys2Proof.Machine
end

