-- ==== Sys2Proof/Machine/BellCommands.lean ====
section
/-! DEFINITION. The meanings of the Bell Table's commands (R30 to R34). -/

namespace Sys2Proof.Machine

def BandRing.bytes (r : BandRing) (depth : Nat) : List Byte :=
  r.values.flatMap u16 ++ u8 r.position ++ u16 (r.mean depth)

/-- R31. -/
def Bell.bytes (r : Bell) (n : Nat) : List Byte :=
  u8 n ++ yesNo r.present ++ placementBytes r.placement ++ yesNo r.calibrated ++
  u16 r.floor ++ u16 r.ceiling ++ u8 r.depth ++ r.soft.bytes r.depth ++ r.loud.bytes r.depth ++
  u8 r.window ++ u8 r.mask ++ u16 r.recovery ++ u8 r.p1 ++ u8 r.p15 ++
  u8 r.missLimit ++ u8 r.missRun ++ u8 r.health.code ++ u8 r.cause.code ++ yesNo r.faultReported ++
  yesNo r.lockout ++ yesNo r.boardOnline ++ yesNo r.available ++ optional u48 r.lastContact ++
  counter r.actuations ++ counter r.contacts ++ counter r.presumed ++ counter r.rejected ++
  counter r.lateContacts ++ counter r.bounces ++ counter r.strays

/-- READ_BELL (R31). -/
def execReadBell (payload : List Byte) (s : State) : Result :=
  s.request payload (parseByte 55) fun s n => s.done ((s.bell n).bytes n)

/-- R32: the checks that the owner makes, in the order of the table. -/
def State.setBellRefusal (s : State) (n : Nat) (c : Calibration) : Option Status :=
  let r := s.bell n
  if c.placement.any fun x => decide (s.body.port.boards < x.1) then some .badOperand
  else if s.pairHeld (fun j => j != n) c.placement then some .badOperand
  else if !r.present then some .unavailable
  else if (s.body.holder n).isSome then some .inUse
  else if s.body.sched.queue.any fun k => k.bell == n then some .inUse
  else if c.placement ≠ r.placement ∧ (s.hammer n).state ≠ .idle then some .inUse
  else none

/-- R33. -/
def State.recalibrated (s : State) (n : Nat) (c : Calibration) : Bell :=
  { ((s.bell n).calibrate c).clearHealth with
    calibrated := true, boardOnline := s.body.placedOnline c.placement }

def State.ownSetBell (s : State) (x : Nat × Calibration) : State × Response :=
  match s.setBellRefusal x.1 x.2 with
  | some status => s.refuse status
  | none => (s.writeBell x.1 (s.recalibrated x.1 x.2)).finish.done []

/-- SET_BELL (R32, R33). -/
def execSetBell (payload : List Byte) (s : State) : Result :=
  s.request payload parseSetBell State.ownSetBell

/-- R30. -/
def State.ownLock (s : State) (n : Nat) (lock : Bool) : State × Response :=
  (s.writeBell n { s.bell n with lockout := lock }).finish.done []

/-- LOCK_BELL (R30). -/
def execLockBell (payload : List Byte) (s : State) : Result :=
  s.request payload (parseByte 55) fun s n => s.ownLock n true

/-- UNLOCK_BELL (R30). -/
def execUnlockBell (payload : List Byte) (s : State) : Result :=
  s.request payload (parseByte 55) fun s n => s.ownLock n false

/-- R34. -/
def State.ownRestore (s : State) (n : Nat) : State × Response :=
  if (s.bell n).faultReported then s.refuse .unavailable
  else (s.writeBell n (s.bell n).clearHealth).finish.done []

/-- RESTORE_BELL (R34). -/
def execRestoreBell (payload : List Byte) (s : State) : Result :=
  s.request payload (parseByte 55) State.ownRestore

end Sys2Proof.Machine
end

