-- ==== Sys2Proof/Machine/BusEvents.lean ====
section
/-! DEFINITION. The meanings of the Hammer Bus Controller's events and commands, and of the Hammer Cycle's
(R42, R47, R48, R177 to R187). -/

namespace Sys2Proof.Machine

/-- R180: a change of the input at the Controller. -/
def Body.takeBelfry (b : Body) (asserted : Bool) : Body :=
  let b := (b.setBus { b.bus with access := asserted }).raise .access
  if asserted then b.cancelOrders .access b.bus.sendList else b

/-- BELFRY_ACCESS_CHANGE (R180). The value it carries is the input's present one (log 22). The value that the
Controller already holds is no change there (log 34). -/
def execBelfryAccessChange (asserted : Bool) (s : State) : Result :=
  s.running fun s =>
    let s := { s with belfry := asserted }
    if s.body.bus.access = asserted then s else s.act fun _ b => b.takeBelfry asserted

/-- SEND_COMPLETION (R178, R38). -/
def execSendCompletion (s : State) : Result :=
  s.running fun s =>
    match s.frameEnded false with
    | some bell => (s.orderSent bell).finish
    | none => s

/-- ABORTED_FRAME_END (R179). -/
def execAbortedFrameEnd (s : State) : Result :=
  s.running fun s =>
    match s.frameEnded true with
    | some _ => s.setBody (s.body.lineEnds s.now)
    | none => s

/-- POLL_ROUND (R181, R182). -/
def execPollRound (s : State) : Result :=
  s.running fun s =>
    if s.roundDue then
      s.setBody ((s.body.setBus (s.body.bus.beginRound s.body.port.boards)).chooseFrame s.now)
    else s

/-- POLL_WINDOW_END (R183): the board record, the content of a valid reply, and last the next frame. -/
def execPollWindowEnd (received : List BusChar) (s : State) : Result :=
  s.running fun s =>
    match s.windowEnded with
    | some board =>
      let s := (s.judgeWindow board received).finish
      s.setBody (s.body.lineEnds s.now)
    | none => s

/-- BUS_NOISE_BYTE (R177). -/
def execBusNoiseByte (s : State) : Result :=
  s.running fun s => s.setBody (s.body.setBus { s.body.bus with noise := s.body.bus.noise + 1 })

/-- EXPIRY (R42). -/
def execExpiry (bell : Nat) (s : State) : Result :=
  s.running fun s => if s.hammerDue .drive bell then (s.presume bell).finish else s

/-- MASK_END (R47). -/
def execMaskEnd (bell : Nat) (s : State) : Result :=
  s.running fun s => if s.hammerDue .mask bell then (s.maskEnds bell).finish else s

/-- SETTLE_END (R48). -/
def execSettleEnd (bell : Nat) (s : State) : Result :=
  s.running fun s =>
    if s.hammerDue .settle bell then s.act fun _ b => b.enterIdle bell else s

/-! ### Commands -/

/-- SET_BUS (R186). -/
def execSetBus (payload : List Byte) (s : State) : Result :=
  s.request payload parseSetBus fun s x =>
    (s.setBody (s.body.setBus { s.body.bus with allowance := x })).done []

/-- R177, R187, R204: the line state, then the bell or board on it as an item that is absent while IDLE
(log 10). -/
def Line.bytes : Line → List Byte
  | .idle => u8 0 ++ optional u8 none
  | .actuate bell _ _ => u8 1 ++ optional u8 (some bell)
  | .poll board _ => u8 2 ++ optional u8 (some board)

/-- R187, STATUS. The consecutive ACTUATE count is one byte: R181 and R182 keep it below 65 (deduced, log 10). -/
def Bus.statusBytes (u : Bus) : List Byte :=
  u16 u.allowance ++ yesNo u.access ++ u.line.bytes ++ u8 u.consecutive ++ u8 u.pointer ++
  setBytes 1 (fun n => n != 0 && u.waitingPoll.getD (n - 1) false) ++ u8 u.sendList.length ++
  counter u.actuatesSent ++ counter u.pollsSent ++ counter u.pollsOvertaken ++
  counter u.cancelledAccess ++ counter u.cancelledOffline ++ counter u.cancelledUnavailable ++
  counter u.noise

/-- R178. -/
def Order.bytes (o : Order) : List Byte :=
  u8 o.bell ++ u8 o.board ++ u8 o.hammer ++ u8 o.pulse ++ u8 o.band.code ++ u48 o.fire ++
  yesNo o.onLine

/-- R54. -/
def Hammer.bytes (h : Hammer) : List Byte :=
  u8 h.state.code ++ optional (fun x => u8 x.code) h.band ++ optional u48 h.send ++
  optional u48 h.expiry ++ optional u48 h.contact ++ optional u8 h.missBefore ++
  yesNo h.presumed ++ optional u48 h.timerEnd

/-- R185: ONLINE is listed first. -/
def Board.bytes (x : Board) : List Byte :=
  yesNo x.online ++ u8 x.missedRun ++ u8 x.replyRun ++ [x.faults] ++ counter x.validReplies ++
  counter x.noReply ++ counter x.badReply ++ counter x.reports ++ counter x.unplacedReports ++
  counter x.overflow ++ counter x.wentOffline

/-- R187. -/
def Body.busBytes (b : Body) : BusSection → List Byte
  | .status => b.bus.statusBytes
  | .orders first => ((b.bus.sendList.drop first).take 8).flatMap Order.bytes
  | .hammers first => ((b.hammers.drop first).take 7).flatMap Hammer.bytes
  | .boards => b.bus.boards.flatMap Board.bytes

/-- READ_BUS (R187). -/
def execReadBus (payload : List Byte) (s : State) : Result :=
  s.request payload parseReadBus fun s x => s.done (s.body.busBytes x)

end Sys2Proof.Machine
end

