-- ==== Sys2Proof/Machine/CalendarCommands.lean ====
section
/-! DEFINITION. The meanings of the Performance Calendar's event and commands (R147, R155 to R158). -/

namespace Sys2Proof.Machine

/-- LAUNCH_INSTANT (R147). -/
def execLaunchInstant (entry : Nat) (s : State) : Result :=
  s.running fun s =>
    if s.body.occurrenceDue s.env entry then s.act fun e b => b.takeNext e entry else s

/-- The next occurrence answered by R155 and R156. -/
def State.nextBytes (s : State) (n : Nat) : List Byte := optional triggerBytes (s.body.entry n).next

/-- R155. -/
def State.ownWriteEntry (s : State) (x : Nat × Bool × EntryFields) : State × Response :=
  if (s.body.entry x.1).active.isSome then s.refuse .inUse
  else
    let s := s.act fun e b =>
      (b.setEntry x.1 { Entry.cleared with fields := some x.2.2, enabled := x.2.1 }).recompute e x.1
    s.done (s.nextBytes x.1)

/-- WRITE_ENTRY (R155). -/
def execWriteEntry (payload : List Byte) (s : State) : Result :=
  s.request payload parseWriteEntry State.ownWriteEntry

/-- R156. -/
def State.ownEnableEntry (s : State) (n : Nat) : State × Response :=
  if (s.body.entry n).fields.isNone then s.refuse .notActive
  else
    let s := s.act fun e b => (b.setEntry n { b.entry n with enabled := true }).recompute e n
    s.done (s.nextBytes n)

/-- ENABLE_ENTRY (R156). -/
def execEnableEntry (payload : List Byte) (s : State) : Result :=
  s.request payload (parseByte 47) State.ownEnableEntry

/-- DISABLE_ENTRY (R156). -/
def execDisableEntry (payload : List Byte) (s : State) : Result :=
  s.request payload (parseByte 47) fun s n =>
    (s.setBody (s.body.setEntry n { s.body.entry n with enabled := false, next := none })).done []

/-- R156. -/
def State.ownClearEntry (s : State) (n : Nat) : State × Response :=
  if (s.body.entry n).active.isSome then s.refuse .inUse
  else (s.setBody (s.body.setEntry n Entry.cleared)).done []

/-- CLEAR_ENTRY (R156). -/
def execClearEntry (payload : List Byte) (s : State) : Result :=
  s.request payload (parseByte 47) State.ownClearEntry

/-- R144, with its time fields in the order of R155. -/
def Recurrence.bytes (r : Option Recurrence) : List Byte :=
  optional u8 (r.map (·.kind.code)) ++ optional u16 (r.map (·.day)) ++ optional u8 (r.map (·.mask)) ++
  optional u8 (r.map (·.hour)) ++ optional u8 (r.map (·.minute)) ++ optional u8 (r.map (·.second)) ++
  optional u8 (r.map (·.firstHour)) ++ optional u8 (r.map (·.lastHour))

/-- R143, from the tune slot to the slack. The tempo is one item of M and N, with one presence byte (the
model's choice, log 10). -/
def PerfFields.bytes (f : Option PerfFields) : List Byte :=
  optional u8 (f.map (·.slot)) ++ optional u8 (f.map (·.map.code)) ++
  optional s8 (f.map (·.transposition)) ++
  optional (fun x => u8 (x.tempoM.getD 0) ++ u8 x.tempoN) f ++ optional u8 (f.map (·.repeatCount)) ++
  optional s8 (f.map (·.forceOffset)) ++ optional u8 (f.map (·.tollBell)) ++
  optional u8 (f.map fun x => x.strokes.getD 0) ++ optional u16 (f.map (·.interval)) ++
  optional u8 (f.map (·.tollForce)) ++ optional u8 (f.map (·.priority)) ++
  optional yesNo (f.map (·.preemptive)) ++ optional u8 (f.map (·.claimKind.code)) ++
  optional u16 (f.map (·.waitLimit)) ++ optional u8 (f.map (·.policy.code)) ++
  optional u16 (f.map (·.slack))

/-- R144, R157: the launch instant of a trigger, as a day count and a day-ms (log 10). -/
def Trigger.before (g : Trigger) (preRoll : Nat) : Trigger :=
  if preRoll ≤ g.ms then { g with ms := g.ms - preRoll }
  else { day := (g.day + 65535) % 65536, ms := g.ms + dayLength - preRoll }

/-- R157. "Written" is listed before "cleared". The enabled flag of a cleared entry is answered absent, with
the other fields of R143 (the model's choice, log 54). -/
def Entry.bytes (x : Entry) (preRoll : Nat) : List Byte :=
  let f := x.fields
  yesNo f.isSome ++ optional yesNo (f.map fun _ => x.enabled) ++ optional u8 (f.map (·.kind.code)) ++
  Recurrence.bytes (f.map (·.recurrence)) ++ optional u8 (f.map fun y => y.player.getD 0) ++
  PerfFields.bytes (f.map (·.perf)) ++ optional yesNo (f.map (·.notice)) ++
  optional triggerBytes x.next ++ optional triggerBytes x.lastFired ++ optional u8 x.active ++
  optional (fun y => u8 y.entryCode) x.lastOutcome ++ counter x.launched ++ counter x.missed ++
  counter x.overlap ++ counter x.refused ++ optional (fun g => triggerBytes (g.before preRoll)) x.next

/-- READ_ENTRY (R157). -/
def execReadEntry (payload : List Byte) (s : State) : Result :=
  s.request payload (parseByte 47) fun s n => s.done ((s.body.entry n).bytes s.body.cal.preRoll)

/-- SET_CALENDAR (R158). -/
def execSetCalendar (payload : List Byte) (s : State) : Result :=
  s.request payload parseSetCalendar fun s x =>
    (s.act fun e b =>
      ({ b with cal := { b.cal with preRoll := x.1, catchUp := x.2.1, margin := x.2.2 } }).recomputeAll
        e).done []

end Sys2Proof.Machine
end

