-- ==== Sys2Proof/Machine/ConsoleCommands.lean ====
section
/-! DEFINITION. The meanings of the Console Interface's events and commands (R161 to R175, R206). -/

namespace Sys2Proof.Machine

/-- CONSOLE_OPEN (R161, R162). -/
def execConsoleOpen (s : State) : Result :=
  s.running fun s => s.act fun e b => (b.frameSeen e).frameArrival e (.event .openSession)

/-- CONSOLE_KEY (R161, R162). -/
def execConsoleKey (pitch force : Byte) (s : State) : Result :=
  s.running fun s => s.act fun e b => (b.frameSeen e).frameArrival e (keyEvent pitch force)

/-- CONSOLE_CLOSE (R161, R162). -/
def execConsoleClose (s : State) : Result :=
  s.running fun s => s.act fun e b => (b.frameSeen e).frameArrival e (.event .close)

/-- ALIVE (R161, R170). -/
def execAlive (s : State) : Result :=
  s.running fun s => s.setBody ((s.body.frameSeen s.env).frameArrival s.env .alive)

/-- MALFORMED_CONSOLE_FRAME (R161). -/
def execMalformedConsoleFrame (s : State) : Result :=
  s.running fun s => s.setBody ((s.body.frameSeen s.env).frameArrival s.env .malformed)

/-- CONSOLE_LINK_BYTE (R170, R206). -/
def execConsoleLinkByte (byte : Byte) (s : State) : Result :=
  s.running fun s => s.act fun e b => b.linkByte e byte

/-- PLAYER0_KEY (R121, R167). -/
def execPlayer0Key (s : State) : Result :=
  s.running fun s => if s.body.con.inFlight then s.act fun e b => b.takeKey e else s

/-- LINK_LOSS (R170). -/
def execLinkLoss (s : State) : Result :=
  s.running fun s =>
    if s.linkLossDue then
      s.act fun e b =>
        (b.setCon { b.con with linkLost := b.con.linkLost + 1 }).closeDrain e .linkLost
    else s

/-- R173: the report is no longer owed, and the value sent is recorded. A lamp report on the way as R171 puts
every last sent value to LOST is recorded at its end all the same: the model's choice (log 57). -/
def Console.reportSent (c : Console) (r : Report) : Console :=
  let c := { c with sending := none }
  match r with
  | .refused => { c with refusedOwed := false }
  | .session state outcome => { c with sentState := some (state, outcome) }
  | .lamp pitch value => { c with sentLamps := c.sentLamps.set pitch value }

/-- CONSOLE_REPORT_SENT (R173): the transmitter goes on with the next report owed (log 32). -/
def execConsoleReportSent (s : State) : Result :=
  s.running fun s =>
    match s.body.con.sending with
    | none => s
    | some r => s.setBody (s.body.setCon (s.body.con.reportSent r).transmit)

/-! ### Commands -/

/-- R174: a change refused while a session exists. -/
def ConsoleSettings.locked (old new : ConsoleSettings) : Bool :=
  old.hold != new.hold || old.resume != new.resume || old.map != new.map

/-- R174. -/
def State.ownSetConsole (s : State) (c : ConsoleSettings) : State × Response :=
  if s.body.con.session ≠ .off ∧ s.body.con.settings.locked c then s.refuse .inUse
  else (s.setBody (s.body.setCon { s.body.con with settings := c })).done []

/-- SET_CONSOLE (R174). -/
def execSetConsole (payload : List Byte) (s : State) : Result :=
  s.request payload parseSetConsole State.ownSetConsole

/-- R169. -/
def State.ownEndConsole (s : State) (x : EndVariant) : State × Response :=
  if s.body.con.session = .off then s.refuse .notActive
  else
    match x with
    | .drain =>
      if s.body.con.session = .live then (s.act fun e b => b.closeDrain e .endConsole).done []
      else s.done []
    | .cut => (s.act fun e b => b.closeCut e).done []

/-- END_CONSOLE_END (R169). -/
def execEndConsoleEnd (payload : List Byte) (s : State) : Result :=
  s.request payload parseEndConsole State.ownEndConsole

/-- END_CONSOLE_CUT (R169). -/
def execEndConsoleCut (payload : List Byte) (s : State) : Result :=
  s.request payload parseEndConsole State.ownEndConsole

/-- R175: kind, pitch, force and arrival instant. -/
def ConsoleEvent.bytes (x : ConsoleEvent) : List Byte :=
  (match x.kind with
   | .openSession => u8 0 ++ optional u8 none ++ optional u8 none
   | .key pitch force => u8 1 ++ optional u8 (some pitch) ++ optional u8 (some force)
   | .close => u8 2 ++ optional u8 none ++ optional u8 none) ++ u48 x.arrival

/-- R174, in the order of its table. -/
def ConsoleSettings.bytes (c : ConsoleSettings) : List Byte :=
  yesNo c.enable ++ u8 c.priority ++ yesNo c.preemptive ++ u8 c.latency.code ++ u16 c.delay ++
  u16 c.slack ++ u8 c.map.code ++ u8 c.hold ++ u8 c.resume

/-- R175. That a STATE report and a STATE REFUSED report owed are two items, the STATE report first, is the model's
choice (log 10). -/
def Console.bytes (c : Console) : List Byte :=
  u8 c.session.code ++ optional (fun x => u8 x.code) c.closeCause ++ optional u48 c.openInstant ++
  optional (fun x => u8 x.sessionCode) c.lastOutcome ++ optional u48 c.linkDeadline ++
  u8 c.fifo.length ++ yesNo c.hold ++ yesNo c.inFlight ++
  (c.fifo.take 8).flatMap ConsoleEvent.bytes ++
  setBytes 12 (fun p => c.lamps.getD p .lost == .held) ++ setBytes 12 c.lampOwed ++
  yesNo c.stateOwed ++ yesNo c.refusedOwed ++ c.settings.bytes ++ counter c.events ++
  counter c.malformed ++ counter c.overrun ++ counter c.ignoredKey ++ counter c.openRefused ++
  counter c.linkLost ++ counter c.sessions

/-- READ_CONSOLE (R175). -/
def execReadConsole (payload : List Byte) (s : State) : Result :=
  s.request payload parseNothing fun s _ => s.done s.body.con.bytes

end Sys2Proof.Machine
end

