-- ==== Sys2Proof/Machine/PlayerCommands.lean ====
section
/-! DEFINITION. The meanings of the Claim Arbiter's and the Player Bank's events and commands (R96, R109,
R119, R120, R122, R123). -/

namespace Sys2Proof.Machine

/-- CLAIM_DEADLINE (R96, R120). -/
def execClaimDeadline (player : Nat) (s : State) : Result :=
  s.running fun s =>
    if s.claimDue player then
      s.act fun e b => (b.abandonClaim player).enterFree e.now player .claimTimeout
    else s

/-- PLAYER_WAKE (R109). -/
def execPlayerWake (player : Nat) (s : State) : Result :=
  s.running fun s => if s.wakeDue player then s.act fun e b => b.takeDecision e player else s

/-! ### PLAY-NOW -/

/-- R122: the hour of Tower Time at now + pre-roll. -/
def TowerTime.hourAfter (t : TowerTime) (ms : Nat) : Nat := ((t.ms + ms) % dayLength) / 3600000

/-- R122: the first two checks, in order. -/
def State.playNowRefusal (s : State) (kind : EntryKind) (f : PerfFields) : Option Status :=
  if kind = .tune ∧ (s.body.slot f.slot).state ≠ .ready then some .noTune
  else if kind = .toll ∧ f.strokes.isNone ∧ s.time.tower.isNone then some .notActive
  else none

/-- R122: the player, chosen or named, if it is FREE. -/
def Body.playNowPlayer (b : Body) (named : Option Nat) : Option Nat :=
  match named with
  | none => b.anyPlayer
  | some p => if (b.player p).state = .free then some p else none

/-- R122: the launch request. -/
def State.playNowLaunch (s : State) (p : Nat) (kind : EntryKind) (f : PerfFields) : Launch :=
  let preRoll := s.body.cal.preRoll
  let hour := match s.time.tower with
    | some t => t.hourAfter preRoll
    | none => 0
  { player := p, origin := .playNow, piece := s.body.piece kind f hour,
    anchor := some (s.now + 8 * preRoll), claimKind := f.claimKind, priority := f.priority,
    preemptive := f.preemptive, waitLimit := f.waitLimit, policy := f.policy, slack := f.slack,
    notice := true, lateStart := false }

/-- R122. The anchor answered is the launch's own (log 26). -/
def State.ownPlayNow (s : State) (x : Option Nat × EntryKind × PerfFields) : State × Response :=
  match s.playNowRefusal x.2.1 x.2.2 with
  | some status => s.refuse status
  | none =>
    match s.body.playNowPlayer x.1 with
    | none => s.refuse .noPlayer
    | some p =>
      (s.act fun e b => (b.launch e (s.playNowLaunch p x.2.1 x.2.2)).1).done
        (u8 p ++ u48 (s.now + 8 * s.body.cal.preRoll))

/-- PLAY_NOW (R122). -/
def execPlayNow (payload : List Byte) (s : State) : Result :=
  s.request payload parsePlayNow State.ownPlayNow

/-! ### STOP-PLAYER -/

/-- R119, STOP. -/
def Body.stopPlayer (now : Nat) (b : Body) (p : Nat) : Body :=
  (b.withdrawPlayer p).enterFree now p .stopped

/-- R119, FINISH. -/
def Body.finishPlayer (now : Nat) (b : Body) (p : Nat) : Body :=
  let b := b.modPlayer p fun x => { x with finish := true }
  let x := b.player p
  if x.state = .playing ∧ (x.perf.bind (·.toll)).isSome then b.drain now p else b

/-- R119. -/
def State.ownStopPlayer (s : State) (x : Nat × StopVariant) : State × Response :=
  if (s.body.player x.1).state = .free then s.refuse .notActive
  else
    (s.act fun e b => match x.2 with
      | .stop => b.stopPlayer e.now x.1
      | .finish => b.finishPlayer e.now x.1).done []

/-- STOP_PLAYER_STOP (R119). -/
def execStopPlayerStop (payload : List Byte) (s : State) : Result :=
  s.request payload parseStopPlayer State.ownStopPlayer

/-- STOP_PLAYER_FINISH (R119). -/
def execStopPlayerFinish (payload : List Byte) (s : State) : Result :=
  s.request payload parseStopPlayer State.ownStopPlayer

/-! ### READ-PLAYER -/

def bellSet (l : List Nat) : List Byte := setBytes 7 l.contains

/-- R82, R100. -/
def ClaimRecord.bytes (r : ClaimRecord) : List Byte :=
  optional bellSet (r.body.map (·.bells)) ++ optional u8 (r.body.map (·.kind.code)) ++
  optional u8 (r.body.map (·.priority)) ++ optional yesNo (r.body.map (·.preemptive)) ++
  optional u16 (r.body.bind (·.waitLimit)) ++ optional u48 r.deadline ++
  optional u48 r.claimInstant ++ optional u48 r.grantInstant ++ u8 r.state.code

/-- R100. A holder is carried as 255 for none and the player's number otherwise (the model's choice,
log 10). -/
def Body.claimBytes (b : Body) (p : Nat) : List Byte :=
  (b.claim p).bytes ++ bellSet (b.bellsHeld p) ++ bellSet (b.bellsWaited p) ++
  listBytes b.claims.rotation ++ b.claims.holders.flatMap bellOrNone

/-- R123, Performance. -/
def Performance.pieceBytes (f : Option Performance) : List Byte :=
  optional u8 (f.map (·.origin.code)) ++ optional u8 (f.map (·.mode.code)) ++
  optional u8 (f.bind (·.slot)) ++ optional u8 ((f.bind (·.map)).map (·.code)) ++
  optional s8 (f.map (·.transposition)) ++ optional s8 (f.map (·.forceOffset)) ++
  optional u8 (f.bind (·.tickPeriod)) ++ optional u8 ((f.bind (·.toll)).map (·.bell)) ++
  optional u8 ((f.bind (·.toll)).map (·.strokes)) ++
  optional u16 ((f.bind (·.toll)).map (·.interval)) ++
  optional u8 ((f.bind (·.toll)).map (·.force))

/-- R123, Position. -/
def Performance.positionBytes (f : Option Performance) : List Byte :=
  optional counter (f.map (·.passNumber)) ++ optional u8 (f.map (·.passesRemaining)) ++
  optional u16 (f.map (·.recordIndex)) ++ optional u32 (f.map (·.tickPosition)) ++
  optional u8 (f.map (·.strokeIndex)) ++ optional u48 (f.bind (·.anchor)) ++
  optional u48 (f.bind (·.nextSounding))

/-- R123, Settings. -/
def Performance.settingBytes (f : Option Performance) : List Byte :=
  optional u8 (f.map (·.claimKind.code)) ++ optional u8 (f.map (·.priority)) ++
  optional yesNo (f.map (·.preemptive)) ++ optional u16 (f.bind (·.waitLimit)) ++
  optional u8 (f.map (·.policy.code)) ++ optional u16 (f.map (·.slack))

/-- R123. -/
def Body.playerBytes (b : Body) (p : Nat) : List Byte :=
  let x := b.player p
  u8 x.state.code ++ u8 x.generation.code ++ optional (fun r => u8 r.code) x.stallReason ++
  optional u48 x.wake ++ Performance.pieceBytes x.perf ++ Performance.positionBytes x.perf ++
  Performance.settingBytes x.perf ++ yesNo x.noticeOnEnd ++ yesNo x.finish ++ yesNo x.lateStart ++
  yesNo x.lost ++ u16 (b.queuedCount p) ++
  optional u8 (if p = 0 then none else some (b.quota p)) ++ counter x.recordsRead ++
  counter x.admitted ++ counter x.deferred ++ counter x.muted ++ counter x.refusedRecovery ++
  counter x.refusedLate ++ counter x.refusedUnavailable ++ counter x.refusedFull ++
  optional (fun f => u8 f.playerCode) x.lastOutcome ++ b.claimBytes p

/-- READ_PLAYER (R123). -/
def execReadPlayer (payload : List Byte) (s : State) : Result :=
  s.request payload (parseByte 7) fun s p => s.done (s.body.playerBytes p)

end Sys2Proof.Machine
end

