-- ==== Sys2Proof/Machine/Startup.lean ====
section
/-! DEFINITION. The meanings of the resets and of the configuration load (R195 to R199). -/

namespace Sys2Proof.Machine

/-- POWER_ON_RESET (R195, R196). The queue of commands and the count of free values drawn are the model's
own and stay (log 39). -/
def execPowerOnReset (boards : BitVec 3) (load belfry : Bool) (s : State) : Result :=
  let t := State.powerOn boards load belfry
  .next { t with pending := s.pending, body := { t.body with draws := s.body.draws } }

/-- RST_ASSERTED (R199). Deferred while the configuration is loading; a second assertion in the same load adds
no second reset (the model's choice, log 21). -/
def execRstAsserted (s : State) : Result :=
  .next
    (if s.rst.asserted then s
     else if s.body.port.loading then
       { s with rst := { asserted := true, held := false, deferred := true } }
     else
       { s.warm with rst := { asserted := true, held := true, deferred := false } })

/-- RST_RELEASED (R199), with the level of the BELFRY input as it stands then. -/
def execRstReleased (belfry : Bool) (s : State) : Result :=
  .next
    (if !s.rst.asserted then s
     else if s.rst.held then State.leaveReset { s with belfry := belfry } .line
     else { s with belfry := belfry, rst := { s.rst with asserted := false } })

/-- R196: the load waits for its header, whose result is then still NOT-READ (the model's choice, log 58). -/
def State.awaitsHeader (s : State) : Bool :=
  s.body.port.loading && s.body.port.load && s.body.port.header == .notRead

/-- R197: the section the load reads next. -/
def State.awaitedSection (s : State) : Option Nat :=
  if s.body.port.loading && s.body.port.header == .good && decide (s.body.port.nextSection < 4) then
    some s.body.port.nextSection
  else none

/-- CONFIG_HEADER_READ (R196). -/
def execConfigHeaderRead (read : Option (List Byte)) (s : State) : Result :=
  s.running fun s => if s.awaitsHeader then s.headerRead read else s

/-- CONFIG_SECTION_READ (R197, R198). -/
def execConfigSectionRead (read : Option (List Byte)) (s : State) : Result :=
  s.running fun s =>
    match s.awaitedSection with
    | none => s
    | some k =>
      let s := (s.sectionRead k read).finish
      if k = 3 then s.loadEnd else s

end Sys2Proof.Machine
end

