-- ==== Sys2Proof/Machine/PortCommands.lean ====
section
/-! DEFINITION. The meanings of the Schedule Port's own transactions and commands (R189 to R194, R199,
R200). -/

namespace Sys2Proof.Machine

/-- READ_TRANSACTION (R189). -/
def execReadTransaction (clocked : Nat) (s : State) : Result :=
  s.running fun s => s.setPort (s.body.port.transaction clocked false)

/-- BAD_FRAME_REQUEST (R189, R190). Idle bytes alone are no request, and bytes that pass the frame check
are no bad frame (log 4). -/
def execBadFrameRequest (bytes : List Byte) (s : State) : Result :=
  s.running fun s =>
    if allIdle bytes || frameGood bytes then s
    else (s.setPort (s.body.port.transaction bytes.length true)).badFrame

/-- UNKNOWN_COMMAND (R191). -/
def execUnknownCommand (command : Byte) (payload : List Byte) (s : State) : Result :=
  s.running fun s =>
    if commandBytes.contains command.toNat || decide (248 < payload.length) then s
    else
      let s := s.arrive (payload.length + 4)
      s.respond (.refuse (if s.body.port.loading then .starting else .unknownCommand))

/-- READ_NOTICES (R194). -/
def execReadNotices (payload : List Byte) (s : State) : Result :=
  s.request payload parseNothing fun s _ =>
    let p := s.body.port
    s.done (noticeBytes p.pendingFlags ++ noticeBytes p.enabled ++ p.raises.flatMap counter)

/-- R194. -/
def State.ownClearNotices (s : State) (kinds : BitVec 13) : State × Response :=
  let flags := s.body.port.pendingFlags &&& ~~~kinds
  (s.setPort { s.body.port with pendingFlags := flags }).done (noticeBytes flags)

/-- CLEAR_NOTICES (R194). -/
def execClearNotices (payload : List Byte) (s : State) : Result :=
  s.request payload parseNotices State.ownClearNotices

/-- SET_NOTICE_MASK (R194). -/
def execSetNoticeMask (payload : List Byte) (s : State) : Result :=
  s.request payload parseNotices fun s kinds =>
    (s.setPort { s.body.port with enabled := kinds }).done []

/-- R199: the warm reset by command. -/
def State.restart (s : State) : State := s.warm.leaveReset .command

/-- RESTART (R199). -/
def execRestart (payload : List Byte) (s : State) : Result :=
  s.request payload parseNothing fun s _ => s.restart.done []

/-- R200, R203. -/
def State.identityBytes (s : State) : List Byte :=
  let p := s.body.port
  u8 124 ++ u16 22080 ++ u8 p.boards ++ yesNo p.load ++ u8 (if p.loading then 0 else 1) ++
  u8 p.header.code ++ (p.sections.flatMap fun x => u8 x.1.code ++ u8 x.2) ++ u8 p.lastCause.code ++
  counter p.warmResets ++ u48 s.now ++ counter p.requests ++ counter p.badFrames ++
  counter p.discarded

/-- IDENTIFY (R200). -/
def execIdentify (payload : List Byte) (s : State) : Result :=
  s.request payload parseNothing fun s _ => s.done s.identityBytes

end Sys2Proof.Machine
end

