-- ==== Sys2Proof/Machine/QueueCommands.lean ====
section
/-! DEFINITION. The meanings of the Strike Scheduler's events and commands (R67, R70, R71, R77 to R79). -/

namespace Sys2Proof.Machine

/-- STRIKE_DUE (R67). -/
def execStrikeDue (position : Nat) (s : State) : Result :=
  s.running fun s =>
    if s.strikeDueAt position then s.act fun e b => b.becomeDue e position else s

/-- LATE_DISCARD (R70). -/
def execLateDiscard (position : Nat) (s : State) : Result :=
  s.running fun s => if s.lateAt position then s.act fun _ b => b.removeAt position .late else s

/-- R71: the input's change at the Strike Scheduler. -/
def Body.takeAccess (b : Body) (asserted : Bool) : Body :=
  let b := b.setSched { b.sched with access := asserted }
  if asserted then b.removeAll .blocked fun k => k.state == .due else b

/-- ACCESS_STATE_EVENT (R71). The value it carries is the input's present one (log 22). -/
def execAccessStateEvent (asserted : Bool) (s : State) : Result :=
  s.running fun s =>
    let s := { s with belfry := asserted }
    if s.body.sched.access = asserted then s else s.act fun _ b => b.takeAccess asserted

/-- R77: the admission request of a TEST strike. -/
def State.testRequest (s : State) (bell force : Nat) : Request :=
  { bell := bell, force := force, sounding := s.now + (s.bell bell).lead (bandOf force) + 8,
    origin := .test, player := none, tunePosition := none, policy := .drop, slack := 0 }

/-- R77. -/
def State.ownTestStrike (s : State) (x : Nat × Nat) : State × Response :=
  if !(s.bell x.1).available || s.body.sched.access then s.refuse .unavailable
  else if (s.body.holder x.1).isSome then s.refuse .inUse
  else
    let r := s.body.decideAdmission s.env (s.testRequest x.1 x.2)
    let s' := (s.setBody r.1).finish
    match r.2 with
    | .admitted fire sounding _ _ => s'.done (u48 fire ++ u48 sounding)
    | .refused .full => s'.refuse .noSpace
    | .refused .unavailable => s'.refuse .unavailable
    | .refused _ => s'.refuse .inUse

/-- TEST_STRIKE (R77). -/
def execTestStrike (payload : List Byte) (s : State) : Result :=
  s.request payload parseTestStrike State.ownTestStrike

/-- R56, R78. -/
def Strike.bytes (k : Strike) : List Byte :=
  u8 k.bell ++ u8 k.force ++ u8 k.band.code ++ u48 k.sounding ++ u48 k.fire ++ u8 k.origin.code ++
  optional u8 k.player ++ optional (fun x => u32 x.1 ++ u16 x.2) k.tunePosition ++ u16 k.deferral ++
  u16 k.admittedLate ++ u48 k.clear ++ u8 k.state.code

/-- R78. -/
def Body.queueBytes (b : Body) (first : Nat) : List Byte :=
  let c := b.sched
  counter c.admitted ++ counter c.fired ++ counter c.withdrawn ++ counter c.discardedLate ++
  counter c.discardedBlocked ++ counter c.discardedUnavailable ++ u16 b.occupancy ++
  ((List.range 8).flatMap fun p => u16 (b.queuedCount p)) ++ u16 b.testCount ++ u8 b.tuneTotal ++
  c.quotas.flatMap u8 ++ u16 (c.horizon / 8) ++ u16 (c.lateLimit / 8) ++
  ((c.queue.drop first).take 4).flatMap Strike.bytes

/-- READ_QUEUE (R78). -/
def execReadQueue (payload : List Byte) (s : State) : Result :=
  s.request payload (parseByte 255) fun s first => s.done (s.body.queueBytes first)

/-- R79: some quota is lower than its player's queued count. -/
def Body.quotaTooLow (b : Body) (quotas : List Nat) : Bool :=
  (List.range 7).any fun i => decide (quotas.getD i 0 < b.queuedCount (i + 1))

/-- R79: the settings are written, strikes beyond the new late limit discarded, and the Player Bank handed
a settings event. -/
def Body.takeSettings (now : Nat) (b : Body) (quotas : List Nat) (horizon late : Nat) : Body :=
  let b := b.setSched { b.sched with quotas := quotas, horizon := 8 * horizon, lateLimit := 8 * late }
  (b.removeAll .late (b.tooLate now)).settingsEvent

/-- R79. -/
def State.ownSetQueue (s : State) (x : List Nat × Nat × Nat) : State × Response :=
  if s.body.quotaTooLow x.1 then s.refuse .inUse
  else (s.act fun e b => b.takeSettings e.now x.1 x.2.1 x.2.2).done []

/-- SET_QUEUE (R79). -/
def execSetQueue (payload : List Byte) (s : State) : Result :=
  s.request payload parseSetQueue State.ownSetQueue

end Sys2Proof.Machine
end

