-- ==== Sys2Proof/Machine/TimeBaseCommands.lean ====
section
/-! DEFINITION. The meanings of the Time Base's events and commands (R5 to R16, R154, R206). -/

namespace Sys2Proof.Machine

/-! ### Telegrams -/

/-- TELEGRAM (R6, R205). -/
def execTelegram (bytes : List Byte) (s : State) : Result :=
  s.running fun s => s.setTime (s.time.judgeTelegram bytes)

/-- TELEGRAM_BYTE_RECEIVED (R206). -/
def execTelegramByteReceived (byte : Byte) (s : State) : Result :=
  s.running fun s => s.setTime (s.time.telegramByte byte)

/-- TELEGRAM_BYTE_TIMEOUT (R206). -/
def execTelegramByteTimeout (s : State) : Result :=
  s.running fun s => if s.telegramDue then s.setTime s.time.badTelegramTaken else s

/-! ### Steps -/

/-- R3: a time change is handed to the Calendar. -/
def State.changeTime (s : State) (before : Option TowerTime) (after : TowerTime) : State :=
  s.act fun e b => b.timeChange e before after

/-- R11: a step of Tower Time. -/
def State.stepTime (s : State) (w : TowerTime) (source : StepSource) : State :=
  let size := match s.time.tower with
    | some v => w.offset v
    | none => 0
  let t := { s.time with tower := some w, phase := 0, slew := 0, withhold := false,
                         lastStep := some (size, source) }
  if size = 0 then s.setTime t
  else ((s.setTime { t with steps := t.steps + 1 }).raise .clockStep).changeTime s.time.tower w

/-! ### Marks -/

/-- R8: Tower Time is started by a telegram. -/
def State.startByMark (s : State) (w : TowerTime) : State :=
  ((s.setTime { s.time with tower := some w, phase := 0, clock := .locked }).raise
    .clockState).changeTime none w

/-- R9, R13: the state becomes LOCKED and a pending load is discarded. -/
def State.lockByMark (s : State) (offset : Int) : State :=
  let t := { s.time with lastOffset := some offset, clock := .locked }
  let t := if t.pendingLoad.isSome then
      { t with pendingLoad := none, wholeSecond := false, loadStatus := .discarded } else t
  let s' := s.setTime t
  if s.time.clock = .holdover then s'.raise .clockState else s'

/-- R9, R10: an offset of 1,000 ms or less: left as it is, or slewed. -/
def TimeBase.slewBy (t : TimeBase) (offset : Int) : TimeBase :=
  if offset.natAbs ≤ 2 then { t with slew := 0 }
  else { t with slew := offset, slewStart := if t.slew = 0 then t.runTime else t.slewStart }

/-- R9: the weekday is replaced where the day counts agree and the weekdays differ. -/
def State.replaceWeekday (s : State) (present held : TowerTime) : State :=
  if present.day = held.day ∧ present.weekday ≠ held.weekday then
    (s.setTime { s.time with tower := some { present with weekday := held.weekday } }).act
      fun e b => b.recomputeAll e
  else s

/-- R9: an accepted mark in HOLDOVER or LOCKED. -/
def State.disciplineByMark (s : State) (present held : TowerTime) : State :=
  let offset := held.offset present
  let s := s.lockByMark offset
  if 1000 < offset.natAbs then s.stepTime held .mark
  else (s.setTime (s.time.slewBy offset)).replaceWeekday present held

/-- R7: the action on a mark paired with a telegram. -/
def State.acceptMark (s : State) (held : TowerTime) : State :=
  let s := s.setTime { s.time with marks := s.time.marks + 1, held := none, lastMark := some s.now }
  match s.time.tower with
  | none => s.startByMark held
  | some present => s.disciplineByMark present held

/-- MARK (R7). -/
def execMark (s : State) : Result :=
  s.running fun s =>
    match s.time.held with
    | none => s.setTime { s.time with orphanMark := s.time.orphanMark + 1 }
    | some h =>
      if h.arrival + 8800 < s.now then
        s.setTime { s.time with orphanMark := s.time.orphanMark + 1, held := none }
      else s.acceptMark h.time

/-! ### Deadlines and intervals -/

/-- HOLDOVER_DEADLINE (R5). -/
def execHoldoverDeadline (s : State) : Result :=
  s.running fun s =>
    if s.holdoverDue then (s.setTime { s.time with clock := .holdover }).raise .clockState else s

/-- SLEW_INTERVAL_END (R10). -/
def execSlewIntervalEnd (s : State) : Result :=
  s.running fun s => if s.slewDue then s.setTime s.time.slewEnd else s

/-- PENDING_LOAD_WHOLE_SECOND (R13). -/
def execPendingLoadWholeSecond (s : State) : Result :=
  s.running fun s =>
    match s.time.pendingLoad with
    | none => s
    | some w =>
      if s.time.wholeSecond then
        State.stepTime
          (s.setTime { s.time with pendingLoad := none, wholeSecond := false, loadStatus := .loaded })
          w .setTime
      else s

/-- DAY_COUNT_WRAP (R154). -/
def execDayCountWrap (s : State) : Result :=
  s.running fun s =>
    if s.time.dayWrapped then
      (s.setTime { s.time with dayWrapped := false }).act fun e b => b.dayWrap e
    else s

/-! ### Commands -/

/-- R12. -/
def State.ownSetTime (s : State) (w : TowerTime) : State × Response :=
  match s.time.clock with
  | .locked => s.refuse .clockOwnsTime
  | .unset =>
    let t := { s.time with tower := some w, phase := 0, clock := .holdover, loadStatus := .loaded }
    (((s.setTime t).raise .clockState).changeTime none w).done (u8 LoadStatus.loaded.code)
  | .holdover =>
    (s.setTime { s.time with pendingLoad := some w, loadStatus := .pendingLoad }).done
      (u8 LoadStatus.pendingLoad.code)

/-- SET_TIME (R12). -/
def execSetTime (payload : List Byte) (s : State) : Result :=
  s.request payload parseSetTime State.ownSetTime

/-- R14. -/
def TimeBase.picture (t : TimeBase) : Snapshot :=
  { tower := t.tower, runTime := t.runTime, clock := t.clock }

def State.ownSnapshot (s : State) : State × Response :=
  if s.time.snapshot.isSome then s.refuse .ignored
  else (s.setTime { s.time with snapshot := some s.time.picture }).done []

/-- SNAPSHOT (R14). -/
def execSnapshot (payload : List Byte) (s : State) : Result :=
  s.request payload parseNothing fun s _ => s.ownSnapshot

def Snapshot.bytes (x : Snapshot) : List Byte :=
  optional towerBytes x.tower ++ u48 x.runTime ++ u8 x.clock.code

def State.ownReadSnapshot (s : State) : State × Response :=
  match s.time.snapshot with
  | none => s.refuse .empty
  | some x => (s.setTime { s.time with snapshot := none }).done x.bytes

/-- READ_SNAPSHOT (R15). -/
def execReadSnapshot (payload : List Byte) (s : State) : Result :=
  s.request payload parseNothing fun s _ => s.ownReadSnapshot

/-- R16. -/
def TimeBase.bytes (t : TimeBase) : List Byte :=
  u8 t.clock.code ++ optional towerBytes t.tower ++ u48 t.runTime ++ optional s48 t.lastOffset ++
  optional (fun x => s48 x.1 ++ u8 x.2.code) t.lastStep ++ s48 t.slew ++
  optional towerBytes t.pendingLoad ++ u8 t.loadStatus.code ++ yesNo t.held.isSome ++
  counter t.telegrams ++ counter t.badTelegram ++ counter t.marks ++ counter t.orphanMark ++
  counter t.steps

/-- READ_CLOCK (R16). -/
def execReadClock (payload : List Byte) (s : State) : Result :=
  s.request payload parseNothing fun s _ => s.done s.time.bytes

end Sys2Proof.Machine
end

