-- ==== Sys2Proof/Machine/TuneCommands.lean ====
section
/-! DEFINITION. The meanings of the commands of the Tune Store and the Bell Maps (R129 to R135, R139 to
R141). -/

namespace Sys2Proof.Machine

/-- R129: the checks, in order. -/
def Body.openRefusal (b : Body) (o : OpenTune) : Option Status :=
  if 0 < (b.slot o.slot).users then some .inUse
  else if b.freeBlocks.length + (b.slot o.slot).blocks.length < blocksFor o.length then some .noSpace
  else none

/-- R129. -/
def State.ownOpenTune (s : State) (o : OpenTune) : State × Response :=
  match s.body.openRefusal o with
  | some status => s.refuse status
  | none =>
    let b := s.body.openSlot o
    (s.setBody b).done
      (u8 (b.slot o.slot).blocks.length ++ u16 b.freeBlocks.length ++
        optional u8 (s.body.otherWriting o.slot))

/-- OPEN_TUNE (R129). -/
def execOpenTune (payload : List Byte) (s : State) : Result :=
  s.request payload parseOpenTune State.ownOpenTune

/-- R131: the checks, in order. -/
def Body.writeRefusal (b : Body) (n offset count : Nat) : Option Status :=
  let x := b.slot n
  if x.state ≠ .writing then some .notActive
  else if x.written ≠ some offset then some .outOfSequence
  else if x.length.getD 0 < offset + count then some .badOperand
  else none

/-- R131: the records stored. -/
def State.storeRecords (s : State) (n offset : Nat) (records : List (List Byte)) : State :=
  let x := s.body.slot n
  { s with memory := s.memory.writeRecords x.blocks offset records,
           body := s.body.setSlot n { x with written := some (offset + records.length) } }

/-- R131. -/
def State.ownWriteTune (s : State) (x : Nat × Nat × List (List Byte)) : State × Response :=
  match s.body.writeRefusal x.1 x.2.1 x.2.2.length with
  | some status => s.refuse status
  | none => (s.storeRecords x.1 x.2.1 x.2.2).done (u16 (x.2.1 + x.2.2.length))

/-- WRITE_TUNE (R131). -/
def execWriteTune (payload : List Byte) (s : State) : Result :=
  s.request payload parseWriteTune State.ownWriteTune

/-- R132: a refused close, which abandons the slot. -/
def State.badContent (s : State) (n : Nat) (crc : Option (BitVec 16)) : State × Response :=
  (s.setBody (s.body.abandonSlot n),
   { status := .badContent, payload := u16 ((s.body.slot n).written.getD 0) ++ optional word16 crc })

/-- R132. -/
def State.ownCloseTune (s : State) (x : Nat × BitVec 16) : State × Response :=
  let slot := s.body.slot x.1
  if slot.state ≠ .writing then s.refuse .notActive
  else if slot.written.getD 0 < slot.length.getD 0 then s.badContent x.1 none
  else
    let records := s.memory.slotRecords slot
    let crc := s.memory.slotCrc slot
    if crc = x.2 then
      let closed := slot.closed records crc
      (s.setBody (s.body.setSlot x.1 closed)).done
        (u8 (pitchSet records).length ++ u32 (totalTicks records))
    else s.badContent x.1 (some crc)

/-- CLOSE_TUNE (R132). -/
def execCloseTune (payload : List Byte) (s : State) : Result :=
  s.request payload parseCloseTune State.ownCloseTune

/-- R133. -/
def State.ownEraseTune (s : State) (n : Nat) : State × Response :=
  if 0 < (s.body.slot n).users then s.refuse .inUse
  else
    let b := s.body.abandonSlot n
    (s.setBody b).done (u16 b.freeBlocks.length)

/-- ERASE_TUNE (R133). -/
def execEraseTune (payload : List Byte) (s : State) : Result :=
  s.request payload (parseByte 63) State.ownEraseTune

/-- R134. The default tempo is one item of M and N, with one presence byte (the model's choice, log 10). -/
def Slot.bytes (x : Slot) : List Byte :=
  u8 x.state.code ++ optional u16 x.length ++
  optional (fun t => u8 t.1 ++ u8 t.2) x.tempo ++ optional u16 x.passGap ++ listBytes x.blocks ++
  optional u16 x.written ++ optional (fun l => setBytes 12 l.contains) x.pitches ++
  optional u32 x.ticks ++ optional word16 x.crc ++ u8 x.users

/-- READ_TUNE_INFO (R134). -/
def execReadTuneInfo (payload : List Byte) (s : State) : Result :=
  s.request payload (parseByte 63) fun s n => s.done (s.body.slot n).bytes

/-- R135: how many slots stand in a state. -/
def Body.slotsIn (b : Body) (x : SlotState) : Nat := b.slots.countP fun y => y.state == x

/-- R135: the slot that is WRITING. -/
def Body.writingSlot (b : Body) : Option Nat :=
  (List.range 64).find? fun k => (b.slot k).state == .writing

/-- R135. -/
def Body.storeBytes (b : Body) : List Byte :=
  u16 b.freeBlocks.length ++ u8 (b.slotsIn .empty) ++ u8 (b.slotsIn .writing) ++
  u8 (b.slotsIn .ready) ++
  optional (fun k => u8 k ++ u16 ((b.slot k).length.getD 0) ++ u16 ((b.slot k).written.getD 0))
    b.writingSlot ++
  u8 (b.slots.countP fun y => y.state == .ready && decide (0 < y.users))

/-- READ_STORE (R135). -/
def execReadStore (payload : List Byte) (s : State) : Result :=
  s.request payload parseNothing fun s _ => s.done s.body.storeBytes

/-! ### Bell Maps -/

/-- R139: entries written from a pitch on. -/
def writeEntries (l : List MapEntry) (first : Nat) : List MapEntry → List MapEntry
  | [] => l
  | x :: rest => writeEntries (l.set first x) (first + 1) rest

def State.map (s : State) : MapId → List MapEntry
  | .a => s.mapA
  | .b => s.mapB

def State.setMap (s : State) (m : MapId) (l : List MapEntry) : State :=
  match m with
  | .a => { s with mapA := l }
  | .b => { s with mapB := l }

/-- R139, R140. -/
def State.ownWriteMap (s : State) (x : MapId × Nat × List MapEntry) : State × Response :=
  let s := s.setMap x.1 (writeEntries (s.map x.1) x.2.1 x.2.2)
  if s.body.con.settings.map = x.1 then
    (s.act fun e b => b.recomputeLamps e fun p =>
      decide (x.2.1 ≤ p ∧ p < x.2.1 + x.2.2.length)).done []
  else s.done []

/-- WRITE_MAP (R139, R140). -/
def execWriteMap (payload : List Byte) (s : State) : Result :=
  s.request payload parseWriteMap State.ownWriteMap

/-- READ_MAP (R141). -/
def execReadMap (payload : List Byte) (s : State) : Result :=
  s.request payload parseReadMap fun s x =>
    s.done ((((s.map x.1).drop x.2.1).take x.2.2).flatMap fun y =>
      bellOrNone y.primary ++ bellOrNone y.alternate)

end Sys2Proof.Machine
end

