-- ==== Sys2Proof/Machine/Dispatch.lean ====
section
/-! DEFINITION. The meaning of every command: one arm for each row of the table. -/

namespace Sys2Proof.Machine

def exec (i : Instr) (s : State) : Host.Outcome State Fault Refusal :=
  match i with
  | .powerOnReset boards load belfry => Sys2Proof.Machine.execPowerOnReset boards load belfry s
  | .rstAsserted => Sys2Proof.Machine.execRstAsserted s
  | .rstReleased belfry => Sys2Proof.Machine.execRstReleased belfry s
  | .configHeaderRead read => Sys2Proof.Machine.execConfigHeaderRead read s
  | .configSectionRead read => Sys2Proof.Machine.execConfigSectionRead read s
  | .telegram bytes => Sys2Proof.Machine.execTelegram bytes s
  | .telegramByteTimeout => Sys2Proof.Machine.execTelegramByteTimeout s
  | .mark => Sys2Proof.Machine.execMark s
  | .holdoverDeadline => Sys2Proof.Machine.execHoldoverDeadline s
  | .slewIntervalEnd => Sys2Proof.Machine.execSlewIntervalEnd s
  | .pendingLoadWholeSecond => Sys2Proof.Machine.execPendingLoadWholeSecond s
  | .dayCountWrap => Sys2Proof.Machine.execDayCountWrap s
  | .setTime payload => Sys2Proof.Machine.execSetTime payload s
  | .snapshot payload => Sys2Proof.Machine.execSnapshot payload s
  | .readSnapshot payload => Sys2Proof.Machine.execReadSnapshot payload s
  | .readClock payload => Sys2Proof.Machine.execReadClock payload s
  | .readBell payload => Sys2Proof.Machine.execReadBell payload s
  | .setBell payload => Sys2Proof.Machine.execSetBell payload s
  | .lockBell payload => Sys2Proof.Machine.execLockBell payload s
  | .unlockBell payload => Sys2Proof.Machine.execUnlockBell payload s
  | .restoreBell payload => Sys2Proof.Machine.execRestoreBell payload s
  | .strikeDue position => Sys2Proof.Machine.execStrikeDue position s
  | .lateDiscard position => Sys2Proof.Machine.execLateDiscard position s
  | .testStrike payload => Sys2Proof.Machine.execTestStrike payload s
  | .readQueue payload => Sys2Proof.Machine.execReadQueue payload s
  | .setQueue payload => Sys2Proof.Machine.execSetQueue payload s
  | .belfryAccessChange asserted => Sys2Proof.Machine.execBelfryAccessChange asserted s
  | .accessStateEvent asserted => Sys2Proof.Machine.execAccessStateEvent asserted s
  | .sendCompletion => Sys2Proof.Machine.execSendCompletion s
  | .abortedFrameEnd => Sys2Proof.Machine.execAbortedFrameEnd s
  | .pollRound => Sys2Proof.Machine.execPollRound s
  | .pollWindowEnd received => Sys2Proof.Machine.execPollWindowEnd received s
  | .busNoiseByte => Sys2Proof.Machine.execBusNoiseByte s
  | .expiry bell => Sys2Proof.Machine.execExpiry bell s
  | .maskEnd bell => Sys2Proof.Machine.execMaskEnd bell s
  | .settleEnd bell => Sys2Proof.Machine.execSettleEnd bell s
  | .claimDeadline player => Sys2Proof.Machine.execClaimDeadline player s
  | .playerWake player => Sys2Proof.Machine.execPlayerWake player s
  | .playNow payload => Sys2Proof.Machine.execPlayNow payload s
  | .stopPlayerStop payload => Sys2Proof.Machine.execStopPlayerStop payload s
  | .stopPlayerFinish payload => Sys2Proof.Machine.execStopPlayerFinish payload s
  | .readPlayer payload => Sys2Proof.Machine.execReadPlayer payload s
  | .openTune payload => Sys2Proof.Machine.execOpenTune payload s
  | .writeTune payload => Sys2Proof.Machine.execWriteTune payload s
  | .closeTune payload => Sys2Proof.Machine.execCloseTune payload s
  | .eraseTune payload => Sys2Proof.Machine.execEraseTune payload s
  | .readTuneInfo payload => Sys2Proof.Machine.execReadTuneInfo payload s
  | .readStore payload => Sys2Proof.Machine.execReadStore payload s
  | .writeMap payload => Sys2Proof.Machine.execWriteMap payload s
  | .readMap payload => Sys2Proof.Machine.execReadMap payload s
  | .launchInstant entry => Sys2Proof.Machine.execLaunchInstant entry s
  | .writeEntry payload => Sys2Proof.Machine.execWriteEntry payload s
  | .enableEntry payload => Sys2Proof.Machine.execEnableEntry payload s
  | .disableEntry payload => Sys2Proof.Machine.execDisableEntry payload s
  | .clearEntry payload => Sys2Proof.Machine.execClearEntry payload s
  | .readEntry payload => Sys2Proof.Machine.execReadEntry payload s
  | .setCalendar payload => Sys2Proof.Machine.execSetCalendar payload s
  | .consoleOpen => Sys2Proof.Machine.execConsoleOpen s
  | .consoleKey pitch force => Sys2Proof.Machine.execConsoleKey pitch force s
  | .consoleClose => Sys2Proof.Machine.execConsoleClose s
  | .alive => Sys2Proof.Machine.execAlive s
  | .malformedConsoleFrame => Sys2Proof.Machine.execMalformedConsoleFrame s
  | .player0Key => Sys2Proof.Machine.execPlayer0Key s
  | .linkLoss => Sys2Proof.Machine.execLinkLoss s
  | .consoleReportSent => Sys2Proof.Machine.execConsoleReportSent s
  | .setConsole payload => Sys2Proof.Machine.execSetConsole payload s
  | .readConsole payload => Sys2Proof.Machine.execReadConsole payload s
  | .endConsoleEnd payload => Sys2Proof.Machine.execEndConsoleEnd payload s
  | .endConsoleCut payload => Sys2Proof.Machine.execEndConsoleCut payload s
  | .setBus payload => Sys2Proof.Machine.execSetBus payload s
  | .readBus payload => Sys2Proof.Machine.execReadBus payload s
  | .readTransaction clocked => Sys2Proof.Machine.execReadTransaction clocked s
  | .badFrameRequest bytes => Sys2Proof.Machine.execBadFrameRequest bytes s
  | .unknownCommand command payload => Sys2Proof.Machine.execUnknownCommand command payload s
  | .readNotices payload => Sys2Proof.Machine.execReadNotices payload s
  | .clearNotices payload => Sys2Proof.Machine.execClearNotices payload s
  | .setNoticeMask payload => Sys2Proof.Machine.execSetNoticeMask payload s
  | .restart payload => Sys2Proof.Machine.execRestart payload s
  | .identify payload => Sys2Proof.Machine.execIdentify payload s
  | .telegramByteReceived byte => Sys2Proof.Machine.execTelegramByteReceived byte s
  | .consoleLinkByte byte => Sys2Proof.Machine.execConsoleLinkByte byte s

end Sys2Proof.Machine
end

