-- ==== Sys2Proof/WellFormed.lean ====
section
/-! DEFINITION. Which terms of `Instr` are commands that the part's links can carry: the bounds of their
operands, and that a row with a check of its own in its name passes it. -/

namespace Sys2Proof

open Sys2Proof.Machine

/-- R203: a request's payload is 0 to 248 bytes. -/
def payloadFits (payload : List Byte) : Bool := decide (payload.length ≤ 248)

/-- R119: the variant byte of STOP-PLAYER is not that of the other row. -/
def stopVariantFits (v : StopVariant) (payload : List Byte) : Bool :=
  (parseStopPlayer payload).all fun x => x.2 == v

/-- R169: the variant byte of END-CONSOLE is not that of the other row. -/
def endVariantFits (v : EndVariant) (payload : List Byte) : Bool :=
  (parseEndConsole payload).all (· == v)

/-- The payload of a request's row (R203). -/
def Instr.payload : Instr → Option (List Byte)
  | .setTime p | .snapshot p | .readSnapshot p | .readClock p | .readBell p | .setBell p
  | .lockBell p | .unlockBell p | .restoreBell p | .testStrike p | .readQueue p | .setQueue p
  | .playNow p | .stopPlayerStop p | .stopPlayerFinish p | .readPlayer p | .openTune p
  | .writeTune p | .closeTune p | .eraseTune p | .readTuneInfo p | .readStore p | .writeMap p
  | .readMap p | .writeEntry p | .enableEntry p | .disableEntry p | .clearEntry p | .readEntry p
  | .setCalendar p | .setConsole p | .readConsole p | .endConsoleEnd p | .endConsoleCut p
  | .setBus p | .readBus p | .readNotices p | .clearNotices p | .setNoticeMask p | .restart p
  | .identify p => some p
  | _ => none

/-- Which terms are commands the links can carry. -/
def Instr.wf : Instr → Bool
  | .powerOnReset _ _ _ | .rstAsserted | .rstReleased _ => true
  | .configHeaderRead read => read.all fun bytes => bytes.length == 36
  | .configSectionRead _ => true
  | .telegram bytes => bytes.length == 9 && byteAt bytes 0 == 165
  | .telegramByteTimeout | .mark | .holdoverDeadline | .slewIntervalEnd
  | .pendingLoadWholeSecond | .dayCountWrap => true
  | .setTime p | .snapshot p | .readSnapshot p | .readClock p | .readBell p | .setBell p
  | .lockBell p | .unlockBell p | .restoreBell p | .testStrike p | .readQueue p | .setQueue p
  | .playNow p | .readPlayer p | .openTune p | .writeTune p | .closeTune p | .eraseTune p
  | .readTuneInfo p | .readStore p | .writeMap p | .readMap p | .writeEntry p | .enableEntry p
  | .disableEntry p | .clearEntry p | .readEntry p | .setCalendar p | .setConsole p
  | .readConsole p | .setBus p | .readBus p | .readNotices p | .clearNotices p
  | .setNoticeMask p | .restart p | .identify p => payloadFits p
  | .stopPlayerStop p => payloadFits p && stopVariantFits .stop p
  | .stopPlayerFinish p => payloadFits p && stopVariantFits .finish p
  | .endConsoleEnd p => payloadFits p && endVariantFits .drain p
  | .endConsoleCut p => payloadFits p && endVariantFits .cut p
  | .strikeDue position | .lateDiscard position => decide (position < 256)
  | .belfryAccessChange _ | .accessStateEvent _ | .sendCompletion | .abortedFrameEnd
  | .pollRound | .pollWindowEnd _ | .busNoiseByte => true
  | .expiry bell | .maskEnd bell | .settleEnd bell => decide (bell < 56)
  | .claimDeadline player => decide (player < 8)
  | .playerWake player => decide (1 ≤ player ∧ player < 8)
  | .launchInstant entry => decide (entry < 48)
  | .consoleOpen | .consoleClose | .alive | .malformedConsoleFrame | .player0Key | .linkLoss
  | .consoleReportSent => true
  | .consoleKey pitch force => decide (pitch.toNat < 128 ∧ force.toNat < 128)
  | .readTransaction _ => true
  | .badFrameRequest bytes => !allIdle bytes && !frameGood bytes
  | .unknownCommand command payload => !commandBytes.contains command.toNat && payloadFits payload
  | .telegramByteReceived _ | .consoleLinkByte _ => true

end Sys2Proof
end

