-- ==== Sys2Proof/Safety.lean ====
section
/-! DEFINITION. What a safe run is: every step answers a next state, and what the part holds keeps its form;
and the words that the statements about the part share. -/

namespace Sys2Proof.Machine

/-- The part goes on. -/
def Goes (s : State) : Prop := ∃ t, step s = .next t

/-- The note record memory has its canonical form (R126, R209). -/
def MemoryCanonical (s : State) : Prop := Memory.wf s.memory = true

/-- R1: Run Time lies in its range. -/
def RunTimeInRange (s : State) : Prop := s.time.runTime ≤ maxRunTime

/-- R2, R4, R13: Tower Time is absent exactly while the clock state is UNSET, a load is pending only in
HOLDOVER, and a whole second is waited for only with a pending load. -/
def TowerWithClock (s : State) : Prop :=
  (s.time.clock = .unset ↔ s.time.tower = none) ∧
  (s.time.pendingLoad ≠ none → s.time.clock = .holdover) ∧
  (s.time.wholeSecond = true → s.time.pendingLoad ≠ none)

/-- R76: what came into the queue is what left it and what stands in it, modulo 2^32. -/
def Body.Accounts (b : Body) : Prop :=
  b.sched.admitted =
    b.sched.fired + b.sched.withdrawn + b.sched.discardedLate + b.sched.discardedBlocked +
      b.sched.discardedUnavailable + BitVec.ofNat 32 b.sched.queue.length

/-- R57: the queue stands in order of fire instant. -/
def Body.QueueOrdered (b : Body) : Prop := b.sched.queue.Pairwise fun x y => x.fire ≤ y.fire

/-- R56, R58: the queue holds up to 256 strikes, those of players 1 to 7 number at most 224, and none of
these players has more than its quota. -/
def Body.QueueFits (b : Body) : Prop :=
  b.sched.queue.length ≤ 256 ∧ b.tuneTotal ≤ 224 ∧ ∀ p, 1 ≤ p → p ≤ 7 → b.queuedCount p ≤ b.quota p

/-- R162: the Console FIFO holds up to 64 events. -/
def Body.FifoFits (b : Body) : Prop := b.con.fifo.length ≤ 64

/-- R178: the send list holds at most one order for each bell. -/
def Body.OneOrderEach (b : Body) : Prop := (b.bus.sendList.map (·.bell)).Nodup

/-- R178: one order stands before another by fire instant, then by bell number. -/
def Order.Before (x y : Order) : Prop := x.fire < y.fire ∨ (x.fire = y.fire ∧ x.bell ≤ y.bell)

/-- R178: the send list stands in this order. -/
def Body.OrdersInTurn (b : Body) : Prop := b.bus.sendList.Pairwise Order.Before

/-- R178 to R180, R182: no order stands while Belfry Access is asserted, and an ACTUATE frame that is not cut
off is that of an order in the list. -/
def Body.LineServesOrders (b : Body) : Prop :=
  (b.bus.access = true → b.bus.sendList = []) ∧
  ∀ bell ends, b.bus.line = .actuate bell ends false → ∃ o ∈ b.bus.sendList, o.bell = bell

/-- And no order stands while RST holds the part (R188, R199). -/
def LineServesOrders (s : State) : Prop :=
  s.body.LineServesOrders ∧ (s.rst.held = true → s.body.bus.sendList = [])

/-- R29: a bell's availability is the one its inputs give it. -/
def AvailabilityDerived (s : State) : Prop := ∀ r ∈ s.bells, r.available = r.mayBeStruck

/-- R21: eight values, each within the bounds, and a ring position. -/
def BandRing.Within (r : BandRing) (floor ceiling : Nat) : Prop :=
  r.values.length = 8 ∧ r.position < 8 ∧ ∀ v ∈ r.values, floor ≤ v ∧ v ≤ ceiling

/-- R18, R21: both rings lie within the bell's floor and ceiling, and the filter depth is one of four. -/
def Bell.FlightSound (r : Bell) : Prop :=
  r.depth ∈ [1, 2, 4, 8] ∧ r.soft.Within r.floor r.ceiling ∧ r.loud.Within r.floor r.ceiling

def FlightsSound (s : State) : Prop := ∀ r ∈ s.bells, r.FlightSound

/-- R127: at most one slot is WRITING. -/
def Body.OneWriting (b : Body) : Prop :=
  ∀ i < 64, ∀ j < 64, (b.slot i).state = .writing → (b.slot j).state = .writing → i = j

/-- Time, storage, maps, the RST line, the BELFRY input and the queue of commands are as they were. -/
structure State.Outside (s t : State) : Prop where
  time    : t.time = s.time
  memory  : t.memory = s.memory
  mapA    : t.mapA = s.mapA
  mapB    : t.mapB = s.mapB
  rst     : t.rst = s.rst
  belfry  : t.belfry = s.belfry
  pending : t.pending = s.pending

/-- What the events that blocks hand one another never change: the settings, the port but for the notices
raised, the link's bytes, the board records, and the tunes but for their users counts. -/
structure Still where
  port       : Port
  settings   : ConsoleSettings
  lastByte   : Option Nat
  rx         : List Byte
  strayRun   : Bool
  events     : Counter
  malformed  : Counter
  overrun    : Counter
  linkLost   : Counter
  calendar   : Nat × Nat × Nat
  queue      : List Nat × Nat × Nat × Bool
  access     : Bool
  boards     : List Board
  allowance  : Nat
  nextRound  : Nat
  noise      : Counter
  slots      : List Slot

def Body.still (b : Body) : Still where
  port := { b.port with pendingFlags := 0, raises := [] }
  settings := b.con.settings
  lastByte := b.con.lastByte
  rx := b.con.rx
  strayRun := b.con.strayRun
  events := b.con.events
  malformed := b.con.malformed
  overrun := b.con.overrun
  linkLost := b.con.linkLost
  calendar := (b.cal.preRoll, b.cal.catchUp, b.cal.margin)
  queue := (b.sched.quotas, b.sched.horizon, b.sched.lateLimit, b.sched.access)
  access := b.bus.access
  boards := b.bus.boards
  allowance := b.bus.allowance
  nextRound := b.bus.nextRound
  noise := b.bus.noise
  slots := b.slots.map fun x => { x with users := 0 }

end Sys2Proof.Machine

namespace Sys2Proof

open Sys2Proof.Machine

/-- R191, step 3: whether the payload spells operands within their ranges. -/
def Instr.operandsRead : Instr → Bool
  | .setTime p => (parseSetTime p).isSome
  | .snapshot p | .readSnapshot p | .readClock p | .readStore p | .readConsole p | .readNotices p
  | .restart p | .identify p => (parseNothing p).isSome
  | .readBell p | .lockBell p | .unlockBell p | .restoreBell p => (parseByte 55 p).isSome
  | .setBell p => (parseSetBell p).isSome
  | .testStrike p => (parseTestStrike p).isSome
  | .readQueue p => (parseByte 255 p).isSome
  | .setQueue p => (parseSetQueue p).isSome
  | .playNow p => (parsePlayNow p).isSome
  | .stopPlayerStop p | .stopPlayerFinish p => (parseStopPlayer p).isSome
  | .readPlayer p => (parseByte 7 p).isSome
  | .openTune p => (parseOpenTune p).isSome
  | .writeTune p => (parseWriteTune p).isSome
  | .closeTune p => (parseCloseTune p).isSome
  | .eraseTune p | .readTuneInfo p => (parseByte 63 p).isSome
  | .writeMap p => (parseWriteMap p).isSome
  | .readMap p => (parseReadMap p).isSome
  | .writeEntry p => (parseWriteEntry p).isSome
  | .enableEntry p | .disableEntry p | .clearEntry p | .readEntry p => (parseByte 47 p).isSome
  | .setCalendar p => (parseSetCalendar p).isSome
  | .setConsole p => (parseSetConsole p).isSome
  | .endConsoleEnd p | .endConsoleCut p => (parseEndConsole p).isSome
  | .setBus p => (parseSetBus p).isSome
  | .readBus p => (parseReadBus p).isSome
  | .clearNotices p | .setNoticeMask p => (parseNotices p).isSome
  | _ => true

/-- R199: the events that the hold of RST does not keep out. -/
def Instr.isReset : Instr → Bool
  | .powerOnReset _ _ _ | .rstAsserted | .rstReleased _ => true
  | _ => false

end Sys2Proof

namespace Sys2Proof.Machine

/-! ### Words the statements share -/

/-- A request that reaches its owner, or is refused by its operands (R190, R191, R192, R199). -/
structure Heard (s : State) (payload : List Byte) : Prop where
  free      : s.rst.held = false
  fits      : payload.length ≤ 248
  operating : s.body.port.loading = false

/-- R189, R190: the port when a request with this payload has arrived and passed the frame check. -/
def Port.heard (p : Port) (payload : List Byte) : Port :=
  { p with
    response := none
    requests := p.requests + 1
    discarded := match p.response with
      | none => p.discarded
      | some r => if r.payload.length ≤ payload.length then p.discarded else p.discarded + 1 }

def State.heard (s : State) (payload : List Byte) : State := s.setPort (s.body.port.heard payload)

/-- The request has arrived and its response waits; nothing else has changed. -/
def State.answer (s : State) (payload : List Byte) (r : Response) : State :=
  (s.heard payload).respond r

/-- R2, R13, R154: the Time Base when Tower Time w has advanced by one millisecond: a pending load is told
of a change of second, the Calendar of a wrap of the day count. -/
def TimeBase.msPassed (t : TimeBase) (w : TowerTime) : TimeBase :=
  let v : TowerTime :=
    if w.ms + 1 < 86400000 then { w with ms := w.ms + 1 }
    else { day := (w.day + 1) % 65536, weekday := (w.weekday + 1) % 7, ms := 0 }
  { t with
    tower := some v
    wholeSecond := t.wholeSecond || (t.pendingLoad.isSome && decide (w.ms / 1000 ≠ v.ms / 1000))
    dayWrapped := t.dayWrapped || decide (v.day < w.day) }

/-- R9: the Time Base when an accepted mark in HOLDOVER or LOCKED has measured this offset. -/
def TimeBase.measured (t : TimeBase) (offset : Int) : TimeBase :=
  { t with
    marks := t.marks + 1, held := none, lastMark := some t.runTime, lastOffset := some offset,
    clock := .locked, pendingLoad := none,
    wholeSecond := if t.pendingLoad.isSome then false else t.wholeSecond,
    loadStatus := if t.pendingLoad.isSome then .discarded else t.loadStatus }

/-- R11: the Time Base when a step has set Tower Time. -/
def TimeBase.stepped (t : TimeBase) (w : TowerTime) (size : Int) (source : StepSource) : TimeBase :=
  { t with
    tower := some w, phase := 0, slew := 0, withhold := false, lastStep := some (size, source),
    steps := if size = 0 then t.steps else t.steps + 1 }

/-- R144: g is the trigger of an occurrence of this recurrence, weekdays counted from Tower Time t. That no
day lies above 65,535 is deduced (log 42). -/
def Recurrence.Occurs (r : Recurrence) (t : TowerTime) (g : Trigger) : Prop :=
  let chosen := r.mask.testBit (((t.weekday : Int) + g.day - t.day) % 7).toNat = true
  let clock := fun hour => (hour * 3600 + r.minute * 60 + r.second) * 1000
  g.day ≤ 65535 ∧
  match r.kind with
  | .once => g.day = r.day ∧ g.ms = clock r.hour
  | .daily => chosen ∧ g.ms = clock r.hour
  | .hourly => chosen ∧ ∃ h, r.firstHour ≤ h ∧ h ≤ r.lastHour ∧ h < 24 ∧ g.ms = clock h

/-- R144: the ranges of the time fields that the recurrence uses for its time of day. -/
def Recurrence.TimesInRange (r : Recurrence) : Prop :=
  r.minute ≤ 59 ∧ r.second ≤ 59 ∧ (r.kind ≠ .hourly → r.hour ≤ 23)

/-- A notice raised at the port. -/
def State.noticed (s : State) (n : Notice) : State := s.setPort (s.body.port.raise n)

/-- R191: the answer OK with an empty payload. -/
def Response.plain : Response := { status := .ok, payload := [] }

/-- R41, step 5; R42: the state after the flight of hammer i, with context h, is closed at `base`. -/
def State.flightClosed (s : State) (i base : Nat) (h : Hammer) : State :=
  let maskEnd := base + (s.bell i).estimate h.cycleBand * (s.bell i).mask / 128
  let settleEnd := maskEnd + (s.bell i).recovery
  if s.now < maskEnd then s.setHammer i { h with state := .mask, timerEnd := some maskEnd }
  else if s.now < settleEnd then
    s.setHammer i { h with state := .settle, timerEnd := some settleEnd }
  else s.setBody (s.body.enterIdle i)

end Sys2Proof.Machine
end

