-- ==== Sys2Proof/Certificates/Slice0/Obligations.lean ====
section
/-! DEFINITION. The statements about the part: its invariants, and for every command the next state that its
own effect gives. The words they share stand in Sys2Proof/Safety.lean. -/

open Sys2Proof Sys2Proof.Machine

/-! ### The queue of commands, time, and the hold of RST -/

/-- A step takes the command at the front of the queue. -/
def Obligations.StepTakesFrontCommand : Prop :=
  ∀ (c : Instr) (s : State), step { s with pending := c :: s.pending } = exec c s

/-- R1, R2, R13, R154 on an empty queue: with no event due an eighth passes, and an event that is due is put
in the queue. And which events are due in which state (R5, R10, R13, R42, R47, R48, R67, R70, R96, R109,
R147, R154, R167, R170, R178, R179, R181, R183, R206). That a step on an empty queue does this is the model's
choice (log 2, log 3), and so is how a withheld millisecond, a whole second and a wrap of the day count are
held (log 14, log 15), which instance a row names (log 40), and that a poll window ends in silence (log 19). -/
def Obligations.EmptyQueueLetsTimePass : Prop :=
  ∀ s : State, s.pending = [] → s.rst.held = false →
    (s.dueEvents = [] →
      let t : TimeBase := { s.time with runTime := min 281474976710655 (s.time.runTime + 1) }
      step s = .next { s with time := match s.time.tower with
        | none => t
        | some w =>
          if s.time.phase < 7 then { t with phase := s.time.phase + 1 }
          else if s.time.withhold then { t with phase := 0, withhold := false }
          else TimeBase.msPassed { t with phase := 0 } w }) ∧
    (s.dueEvents ≠ [] → ∃ c ∈ s.dueEvents, ∃ d : Nat,
      step s = .next { s with pending := [c], body := { s.body with draws := d } }) ∧
    ∀ c : Instr, c ∈ s.dueEvents ↔
      (c = .holdoverDeadline ∧ s.time.clock = .locked ∧ ∃ m ∈ s.time.lastMark, m + 28000 ≤ s.now) ∨
      (c = .slewIntervalEnd ∧ s.time.slew ≠ 0 ∧ s.time.slewStart + 512 ≤ s.now) ∨
      (c = .pendingLoadWholeSecond ∧ s.time.pendingLoad ≠ none ∧ s.time.wholeSecond = true) ∨
      (c = .dayCountWrap ∧ s.time.dayWrapped = true) ∨
      (c = .telegramByteTimeout ∧ s.time.rx ≠ [] ∧ s.time.rxLast + 161 ≤ s.now) ∨
      (∃ i < 56, ∃ x ∈ (s.hammer i).timerEnd, x ≤ s.now ∧
        ((c = .expiry i ∧ (s.hammer i).state = .drive) ∨ (c = .maskEnd i ∧ (s.hammer i).state = .mask) ∨
          (c = .settleEnd i ∧ (s.hammer i).state = .settle))) ∨
      (∃ i k, s.body.sched.queue[i]? = some k ∧
        ((c = .strikeDue i ∧ k.state = .queued ∧ k.fire ≤ s.now) ∨
          (c = .lateDiscard i ∧ k.state = .due ∧
            s.body.sched.lateLimit < s.now - k.fire + k.admittedLate))) ∨
      (∃ bell ends cut, s.body.bus.line = .actuate bell ends cut ∧ ends ≤ s.now ∧
        c = if cut then .abortedFrameEnd else .sendCompletion) ∨
      (c = .pollWindowEnd [] ∧ ∃ board ends, s.body.bus.line = .poll board ends ∧ ends ≤ s.now) ∨
      (c = .pollRound ∧ s.body.bus.nextRound ≤ s.now) ∨
      (∃ p < 8, c = .claimDeadline p ∧ (s.body.claim p).state = .pendingClaim ∧
        ∃ x ∈ (s.body.claim p).deadline, x ≤ s.now) ∨
      (∃ p < 8, c = .playerWake p ∧ (s.body.player p).state = .playing ∧
        (s.body.player p).generation = .stalled ∧ ∃ x ∈ (s.body.player p).wake, x ≤ s.now) ∨
      (∃ n < 48, c = .launchInstant n ∧ s.body.port.loading = false ∧
        ∃ g ∈ (s.body.entry n).next, ∃ w ∈ s.time.tower,
          g.day * 86400000 + g.ms ≤ w.day * 86400000 + w.ms + s.body.cal.preRoll) ∨
      (c = .player0Key ∧ s.body.con.inFlight = true) ∨
      (c = .linkLoss ∧ s.body.con.session = .live ∧ ∃ x ∈ s.body.con.lastByte, x + 40000 ≤ s.now)

/-- No command ends in a fault or a refusal, and none touches the queue of commands. That none ends in a
fault or a refusal is the model's choice (log 37), and so is that POWER_ON_RESET keeps the queue (log 39). -/
def Obligations.EveryCommandGoesOn : Prop :=
  ∀ (c : Instr) (s : State), ∃ t, exec c s = .next t ∧ t.pending = s.pending

/-- R199, R17: while RST holds the part no event reaches any block; Run Time stands and Tower Time runs. That a
step on an empty queue in the hold is one eighth of Tower Time alone is the model's choice (log 2), and so
are that the withheld millisecond waits (log 14) and that a wrap of the day count in the hold is remembered
(log 15, log 23). -/
def Obligations.HeldPartTakesNoEvent : Prop :=
  ∀ s : State, s.rst.held = true →
    (∀ c : Instr, c.isReset = false → exec c s = .next s) ∧
    (s.pending = [] →
      step s = .next { s with time := match s.time.tower with
        | none => s.time
        | some w =>
          if s.time.phase < 7 then { s.time with phase := s.time.phase + 1 }
          else TimeBase.msPassed { s.time with phase := 0 } w })

/-! ### Invariants -/

/-- R126, R209: every step keeps the note record memory in its canonical form. -/
def Obligations.StepKeepsMemoryCanonical : Prop :=
  ∀ s t : State, MemoryCanonical s → step s = .next t → MemoryCanonical t

/-- R1: every step keeps Run Time in its range. -/
def Obligations.StepKeepsRunTimeInRange : Prop :=
  ∀ s t : State, RunTimeInRange s → step s = .next t → RunTimeInRange t

/-- R2, R4, R13: every step keeps Tower Time absent exactly in UNSET, a load pending only in HOLDOVER, and a
whole second waiting only with a pending load. -/
def Obligations.StepKeepsTowerWithClock : Prop :=
  ∀ s t : State, TowerWithClock s → step s = .next t → TowerWithClock t

/-- R76: every step keeps the queue's account. -/
def Obligations.StepKeepsQueueAccount : Prop :=
  ∀ s t : State, s.body.Accounts → step s = .next t → t.body.Accounts

/-- R57: every step keeps the queue in order of fire instant. -/
def Obligations.StepKeepsQueueOrdered : Prop :=
  ∀ s t : State, s.body.QueueOrdered → step s = .next t → t.body.QueueOrdered

/-- R56, R58, R162: every step keeps the queue within 256 strikes, those of players 1 to 7 within 224 and each
of these players within its quota, and the Console FIFO within 64 events. -/
def Obligations.StepKeepsBuffersWithinBounds : Prop :=
  (∀ s t : State, s.body.QueueFits → step s = .next t → t.body.QueueFits) ∧
  (∀ s t : State, s.body.FifoFits → step s = .next t → t.body.FifoFits)

/-- R178 to R180, R182: every step keeps at most one order for each bell in the send list, keeps the list in
order of fire instant and then bell number, and keeps the list empty while Belfry Access is asserted (and while
RST holds the part) and each ACTUATE frame on the line that is not cut off that of an order in the list; so no
ACTUATE frame is sent while Belfry Access is asserted. -/
def Obligations.StepKeepsSendListLawful : Prop :=
  (∀ s t : State, s.body.OneOrderEach → step s = .next t → t.body.OneOrderEach) ∧
  (∀ s t : State, s.body.OrdersInTurn → step s = .next t → t.body.OrdersInTurn) ∧
  (∀ s t : State, LineServesOrders s → step s = .next t → LineServesOrders t) ∧
  ∀ s : State, LineServesOrders s → s.body.bus.access = true →
    s.body.bus.sendList = [] ∧ ∀ bell ends, s.body.bus.line ≠ .actuate bell ends false

/-- R29: every step keeps each bell's availability as its inputs give it. -/
def Obligations.StepKeepsAvailabilityDerived : Prop :=
  ∀ s t : State, AvailabilityDerived s → step s = .next t → AvailabilityDerived t

/-- R21: every step keeps the ring values within the floor and ceiling, and then each estimate lies
within them. -/
def Obligations.StepKeepsFlightEstimatesWithinBounds : Prop :=
  (∀ s t : State, FlightsSound s → step s = .next t → FlightsSound t) ∧
  (∀ (r : Bell) (band : Band), r.FlightSound →
    r.floor ≤ r.estimate band ∧ r.estimate band ≤ r.ceiling)

/-- R127: every step keeps at most one slot WRITING. -/
def Obligations.StepKeepsOneSlotWriting : Prop :=
  ∀ s t : State, s.body.OneWriting → step s = .next t → t.body.OneWriting

/-- The invariants hold at reset, every input of the reset at 0 (log 1). -/
def Obligations.ResetMeetsInvariants : Prop :=
  MemoryCanonical State.reset ∧ RunTimeInRange State.reset ∧ TowerWithClock State.reset ∧
  State.reset.body.Accounts ∧ State.reset.body.QueueOrdered ∧ State.reset.body.QueueFits ∧
  State.reset.body.FifoFits ∧ State.reset.body.OneOrderEach ∧ State.reset.body.OrdersInTurn ∧
  LineServesOrders State.reset ∧ AvailabilityDerived State.reset ∧ FlightsSound State.reset ∧
  State.reset.body.OneWriting

/-! ### Resets and start-up -/

/-- R196: what the release of POR leaves, field by field (R17, R35, R55, R80, R101, R124, R136, R142, R159,
R176, R188, R195, R201). The model's choices: RST is released (log 38); no note record byte is listed, since
the manual gives free blocks no contents (log 27); the queue of commands and the count of draws are kept
(log 39); the seven held values of log 1; the players' notice on end (log 48); the console's report begun
at once (log 32); with LOAD set, the header and section results before the load writes them (log 58). -/
def Obligations.PowerOnResetValues : Prop :=
  ∀ (boards : BitVec 3) (load belfry : Bool) (s : State),
    ∃ t : State, exec (.powerOnReset boards load belfry) s = .next t ∧
      let count := if boards = 0 then 1 else boards.toNat
      t.pending = s.pending ∧ t.memory = [] ∧
      t.rst = { asserted := false, held := false, deferred := false } ∧ t.belfry = belfry ∧
      t.time =
        { runTime := 0, clock := .unset, tower := none, phase := 0, slew := 0, slewStart := 0,
          withhold := false, lastMark := none, held := none, rx := [], rxLast := 0,
          pendingLoad := none, wholeSecond := false, loadStatus := .noLoad, snapshot := none,
          lastOffset := none, lastStep := none, dayWrapped := false, telegrams := 0,
          badTelegram := 0, marks := 0, orphanMark := 0, steps := 0 } ∧
      (∀ n < 56, t.bell n =
        { present := decide (n < 8 * count), placement := some (n / 8 + 1, n % 8),
          calibrated := false, floor := 80, ceiling := 2400, depth := 4,
          soft := { values := List.replicate 8 800, position := 0 },
          loud := { values := List.replicate 8 400, position := 0 },
          window := 192, mask := 32, recovery := 800, p1 := 16, p15 := 96, missLimit := 3,
          missRun := 0, cause := .noFailure, faultReported := false, boardOnline := false,
          lockout := false, available := false, actuations := 0, contacts := 0, presumed := 0,
          rejected := 0, lateContacts := 0, bounces := 0, strays := 0, lastContact := none }) ∧
      (∀ m pitch, t.env.entryOf m pitch = { primary := none, alternate := none }) ∧
      t.body.hammers = List.replicate 56
        { state := .idle, band := none, send := none, expiry := none, contact := none,
          presumed := false, missBefore := none, timerEnd := none } ∧
      t.body.sched =
        { queue := [], quotas := List.replicate 7 64, horizon := 12000, lateLimit := 320,
          access := belfry, admitted := 0, fired := 0, withdrawn := 0, discardedLate := 0,
          discardedBlocked := 0, discardedUnavailable := 0 } ∧
      (∀ i, t.body.holder i = none ∧ t.body.waitingOn i = []) ∧
      (∀ p, t.body.claim p =
        { body := none, deadline := none, claimInstant := none, grantInstant := none,
          state := .noClaim }) ∧
      t.body.claims.rotation = [1, 2, 3, 4, 5, 6, 7, 0] ∧
      (∀ p, t.body.player p =
        { state := .free, generation := .done, stallReason := none, wake := none, perf := none,
          noticeOnEnd := false, finish := false, closeCause := none, lateStart := false,
          lost := false, recordsRead := 0, admitted := 0, deferred := 0, muted := 0,
          refusedRecovery := 0, refusedLate := 0, refusedUnavailable := 0, refusedFull := 0,
          lastOutcome := none }) ∧
      (∀ n, t.body.slot n =
        { state := .empty, length := none, tempo := none, passGap := none, blocks := [],
          written := none, pitches := none, ticks := none, crc := none, users := 0 }) ∧
      (∀ n, t.body.entry n =
        { fields := none, enabled := false, next := none, lastFired := none, active := none,
          lastOutcome := none, launched := 0, missed := 0, overlap := 0, refused := 0 }) ∧
      t.body.cal.preRoll = 2000 ∧ t.body.cal.catchUp = 300 ∧ t.body.cal.margin = 500 ∧
      t.body.con =
        { fifo := [], inFlight := false, hold := false, session := .off, closeCause := none,
          openInstant := none, lastOutcome := none, lastByte := none, rx := [], strayRun := false,
          lamps := List.replicate 96 .lost, sentLamps := List.replicate 96 .lost,
          refusedOwed := false, sentState := none, sending := some (.session .off none),
          settings := { enable := true, priority := 2, preemptive := false, latency := .equal,
                        delay := 300, slack := 100, map := .a, hold := 48, resume := 16 },
          events := 0, malformed := 0, overrun := 0, ignoredKey := 0, openRefused := 0,
          linkLost := 0, sessions := 0 } ∧
      t.body.bus =
        { sendList := [], line := .idle, consecutive := 0, waitingPoll := List.replicate 7 false,
          pointer := count, nextRound := 0, access := belfry,
          boards := List.replicate 7
            { online := false, missedRun := 0, replyRun := 0, faults := 0, validReplies := 0,
              noReply := 0, badReply := 0, reports := 0, unplacedReports := 0, overflow := 0,
              wentOffline := 0 },
          allowance := 80, actuatesSent := 0, pollsSent := 0, pollsOvertaken := 0,
          cancelledAccess := 0, cancelledOffline := 0, cancelledUnavailable := 0, noise := 0 } ∧
      t.body.port =
        { response := none, pendingFlags := 0, enabled := BitVec.allOnes 13,
          raises := List.replicate 13 0, loading := load, boards := count, load := load,
          header := .notRead, directory := [], nextSection := 0,
          sections := List.replicate 4 (.notRead, 0), lastCause := .powerOn, warmResets := 0,
          requests := 0, badFrames := 0, discarded := 0 } ∧
      t.body.mail = [] ∧ t.body.draws = s.body.draws

/-- R199: the warm-reset values of every block (R17, R35, R55, R80, R101, R124, R137, R160, R176, R188,
R201). The model's: a begun telegram, a begun frame and a report being sent are broken off (log 24), the
instant of the last telegram byte starts again from 0 (log 1), the withheld millisecond and a wrap of the day
count are kept (log 14, log 23), a reached whole second goes with the load (log 15), the console's STATE OFF
report is begun at once (log 32). -/
def Obligations.WarmResetValues : Prop :=
  ∀ s : State,
    let t := s.warm
    t.memory = s.memory ∧ t.mapA = s.mapA ∧ t.mapB = s.mapB ∧ t.pending = s.pending ∧
    t.time = { s.time with
      runTime := 0, slewStart := 0,
      lastMark := if s.time.clock = .locked then some 0 else none, held := none, rx := [],
      rxLast := 0, pendingLoad := none, wholeSecond := false, loadStatus := .noLoad,
      snapshot := none } ∧
    t.bells = s.bells.map (fun r =>
      { r with boardOnline := false, faultReported := false, lastContact := none,
               available := false }) ∧
    t.body.hammers = s.bells.map (fun r =>
      let settles := r.present = true ∧ r.calibrated = true ∧ 0 < r.recovery
      { state := if settles then .settle else .idle, band := none, send := none, expiry := none,
        contact := none, presumed := false, missBefore := none,
        timerEnd := if settles then some r.recovery else none }) ∧
    t.body.sched =
      { queue := [], quotas := s.body.sched.quotas, horizon := s.body.sched.horizon,
        lateLimit := s.body.sched.lateLimit, access := s.belfry, admitted := 0, fired := 0,
        withdrawn := 0, discardedLate := 0, discardedBlocked := 0, discardedUnavailable := 0 } ∧
    t.body.claims =
      { holders := List.replicate 56 none, waiting := List.replicate 56 [],
        records := List.replicate 8 { body := none, deadline := none, claimInstant := none,
                                      grantInstant := none, state := .noClaim },
        rotation := [1, 2, 3, 4, 5, 6, 7, 0] } ∧
    t.body.players = s.body.players.map (fun x =>
      { x with state := .free, generation := .done, stallReason := none, wake := none,
               lastOutcome := if x.state = .free then x.lastOutcome else some .reset }) ∧
    t.body.slots = s.body.slots.map (fun x =>
      if x.state = .writing then
        { state := .empty, length := none, tempo := none, passGap := none, blocks := [],
          written := none, pitches := none, ticks := none, crc := none, users := 0 }
      else { x with users := 0 }) ∧
    t.body.cal = { s.body.cal with entries := s.body.cal.entries.map fun (x : Entry) =>
      if x.active.isSome then { x with active := none, lastOutcome := some .reset } else x } ∧
    (let outcome := if s.body.con.session = .off then s.body.con.lastOutcome else some .reset
     t.body.con = { s.body.con with
       fifo := [], inFlight := false, hold := false, session := .off, closeCause := none,
       openInstant := none, lastOutcome := outcome, lastByte := none, rx := [], strayRun := false,
       lamps := List.replicate 96 .lost, sentLamps := List.replicate 96 .lost,
       refusedOwed := false, sentState := none, sending := some (.session .off outcome) }) ∧
    t.body.bus = { s.body.bus with
      sendList := [], line := .idle, consecutive := 0, waitingPoll := List.replicate 7 false,
      pointer := s.body.port.boards, nextRound := 0, access := s.belfry,
      boards := s.body.bus.boards.map fun (x : Board) =>
        { x with online := false, missedRun := 0, replyRun := 0, faults := 0 } } ∧
    t.body.port = { s.body.port with response := none, pendingFlags := 0 } ∧
    t.rst = s.rst ∧ t.belfry = s.belfry ∧ t.body.mail = [] ∧ t.body.draws = s.body.draws

/-- R199: the RST line. Asserted while OPERATING it holds the part at its warm-reset values; asserted
while LOADING its warm reset waits; its release ends the hold, with the cause LINE and the BELFRY input
as it stands then (a release before a deferred reset carries it too: log 22). The model's choices: the counter
rises and the cause is written at the release, what a release before a deferred reset does, and that assertions
during one load are one deferred reset (log 21). -/
def Obligations.RstLineHoldsAndReleases : Prop :=
  ∀ s : State,
    (s.rst.asserted = false → s.body.port.loading = false →
      exec .rstAsserted s = .next { s.warm with
        rst := { asserted := true, held := true, deferred := false } }) ∧
    (s.rst.asserted = false → s.body.port.loading = true →
      exec .rstAsserted s = .next { s with
        rst := { asserted := true, held := false, deferred := true } }) ∧
    (∀ belfry : Bool, s.rst.asserted = true → s.rst.held = true →
      exec (.rstReleased belfry) s = .next (State.act
        { s with
          belfry := belfry
          rst := { asserted := false, held := false, deferred := false }
          body := { s.body with
            sched := { s.body.sched with access := belfry }
            bus := { s.body.bus with access := belfry }
            port := { s.body.port with lastCause := .line,
                                       warmResets := s.body.port.warmResets + 1 } } }
        (fun e b => b.recomputeAll e))) ∧
    (∀ belfry : Bool, s.rst.asserted = true → s.rst.held = false →
      exec (.rstReleased belfry) s = .next { s with
        belfry := belfry, rst := { s.rst with asserted := false } })

/-- R199: RESTART carries out the warm reset in its own event and is answered OK after it. -/
def Obligations.RestartIsAWarmReset : Prop :=
  ∀ s : State, Heard s [] →
    let w := (s.heard []).warm
    exec (.restart []) s = .next
      ((State.act
        { w with
          rst := { asserted := false, held := false, deferred := false }
          body := { w.body with
            port := { w.body.port with lastCause := .command,
                                       warmResets := s.body.port.warmResets + 1 } } }
        (fun e b => b.recomputeAll e)).respond { status := .ok, payload := [] })

/-- R196, R198, R199, R210: the header read, which headers are good, the end of the load, and the warm reset
deferred by it. When the deferred reset counts and what its cause is are the model's choices (log 21), and so is
NOT-READ as the header result before the header is read (log 58). -/
def Obligations.ConfigHeaderDecidesTheLoad : Prop :=
  (∀ s : State, s.rst.held = false → s.body.port.loading = true → s.body.port.load = true →
    s.body.port.header = .notRead →
    (∀ bytes : List Byte, headerGood bytes = true →
      exec (.configHeaderRead (some bytes)) s = .next (s.setPort { s.body.port with
        header := .good, nextSection := 0,
        directory := (List.range 4).map fun k =>
          (longAt bytes (2 + 8 * k), longAt bytes (6 + 8 * k)) })) ∧
    (∀ read : Option (List Byte), (∀ bytes, read = some bytes → headerGood bytes = false) →
      let p := Port.raise { s.body.port with
        header := if read.isSome then .badHeader else .noMemory,
        sections := List.replicate 4 (.defaults, 0) } .configError
      exec (.configHeaderRead read) s = .next (s.setPort p).loadEnd)) ∧
  (∀ bytes : List Byte, headerGood bytes = true ↔
    bytes.length = 36 ∧ wordAt bytes 0 = 23121 ∧
    (crc16 (bytes.take 34)).toNat = wordAt bytes 34 ∧ ∀ k < 4, 0 < longAt bytes (6 + 8 * k)) ∧
  ∀ s : State,
    let w := s.warm
    s.loadEnd = (State.act (s.setPort { s.body.port with loading := false })
      (fun e b => b.recomputeAll e)).deferredReset ∧
    (s.rst.deferred = false → s.deferredReset = s) ∧
    (s.rst.deferred = true → s.rst.asserted = true → s.deferredReset =
      { w with rst := { asserted := true, held := true, deferred := false } }) ∧
    (s.rst.deferred = true → s.rst.asserted = false → s.deferredReset = State.act
      { w with
        rst := { asserted := false, held := false, deferred := false }
        body := { w.body with
          port := { w.body.port with lastCause := .line,
                                     warmResets := s.body.port.warmResets + 1 } } }
      (fun e b => b.recomputeAll e))

/-- R197, R210: a section read. One whose CRC fails, or that the memory stops acknowledging, is recorded
DEFAULTS and raises CONFIG-ERROR; one that passes is applied and recorded by its rejected items; with
TUNES the load ends (R198). What each section's items load: BELLS (R35), MAPS (R142), CALENDAR (R159), TUNES
(R136, with the places of their records by R126 and R209; the pitch set and the total ticks of the records stand
in TuneSlotCommands). The model's choices: a section of one byte (log 50); items that a section's bytes cannot
complete (log 30); a TUNES slot count above 64 (log 49); the board online flag of a loaded bell (log 31,
log 45). -/
def Obligations.ConfigSectionIsRecorded : Prop :=
  (∀ (s : State) (k : Nat), s.rst.held = false → s.body.port.loading = true →
    s.body.port.header = .good → s.body.port.nextSection = k → k < 4 →
    let length := (s.body.port.directory.getD k (0, 0)).2
    let ends := fun u : State => if k = 3 then u.finish.loadEnd else u.finish
    let record := fun (u : State) (r : SectionResult) (n : Nat) =>
      u.setPort { u.body.port with sections := u.body.port.sections.set k (r, n),
                                   nextSection := k + 1 }
    (∀ read : Option (List Byte), (∀ bytes, read = some bytes → sectionGood length bytes = false) →
      exec (.configSectionRead read) s =
        .next (ends ((record s .defaults 0).noticed .configError))) ∧
    (∀ bytes : List Byte, sectionGood length bytes = true →
      let r := s.applySection k (bytes.take (length - 2))
      exec (.configSectionRead (some bytes)) s =
        .next (ends (if r.2 = 0 then record r.1 .loaded 0
          else (record r.1 .loadedWithErrors r.2).noticed .configError)))) ∧
  (∀ (length : Nat) (bytes : List Byte), sectionGood length bytes = true ↔
    bytes.length = length ∧ 2 ≤ length ∧
    (crc16 (bytes.take (length - 2))).toNat = wordAt bytes (length - 2)) ∧
  -- BELLS
  (∀ (s : State) (items : List Byte), s.applySection 0 items = (List.range 56).foldl (fun a i =>
    let r := a.1.loadBell i (if 19 * i + 19 ≤ items.length
      then readBellRecord ((items.drop (19 * i)).take 19) else none)
    (r.1, a.2 + r.2)) (s, 0)) ∧
  (∀ (bytes : List Byte) (y : Bool) (c : Calibration), readBellRecord bytes = some (y, c) ↔
    readYesNo (byteAt bytes 0) = some y ∧ parseCalibration bytes 1 = some c) ∧
  (∀ (s : State) (i : Nat) (item : Option (Bool × Calibration)), i < 56 →
    let r := s.bell i
    let default := fun place : Option (Nat × Nat) =>
      ({ placement := place, floor := 80, ceiling := 2400, depth := 4, softSeed := 800,
         loudSeed := 400, window := 192, mask := 32, recovery := 800, p1 := 16, p15 := 96,
         missLimit := 3 } : Calibration)
    let taken := fun place : Option (Nat × Nat) => r.present = true ∧ place ≠ none ∧
      ∃ j < i, (s.bell j).present = true ∧ (s.bell j).placement = place
    let fits := fun c : Calibration =>
      r.present = true → ∀ x ∈ c.placement, x.1 ≤ s.body.port.boards
    let loads := fun (y : Bool) (c : Calibration) (rejected : Nat) =>
      let u := s.writeBell i { r with
        placement := c.placement, floor := c.floor, ceiling := c.ceiling, depth := c.depth,
        soft := { values := List.replicate 8 c.softSeed, position := 0 },
        loud := { values := List.replicate 8 c.loudSeed, position := 0 },
        window := c.window, mask := c.mask, recovery := c.recovery, p1 := c.p1, p15 := c.p15,
        missLimit := c.missLimit, calibrated := y,
        boardOnline := r.present && c.placement.any fun x => (s.board x.1).online }
      s.loadBell i item =
        (if r.present = true ∧ y = true ∧ 0 < c.recovery then u.setHammer i
           { state := .settle, band := none, send := none, expiry := none, contact := none,
             presumed := false, missBefore := none, timerEnd := some (s.now + c.recovery) }
         else u, rejected)
    (∀ y c, item = some (y, c) → fits c → ¬ taken c.placement → loads y c 0) ∧
    (∀ y c, item = some (y, c) → fits c → taken c.placement → loads false (default none) 1) ∧
    ((∀ y c, item = some (y, c) → ¬ fits c) →
      (¬ taken (some (i / 8 + 1, i % 8)) → loads false (default (some (i / 8 + 1, i % 8))) 1) ∧
      (taken (some (i / 8 + 1, i % 8)) → loads false (default none) 1))) ∧
  -- MAPS
  (∀ (s : State) (items : List Byte),
    let item := fun k => if 2 * k + 2 ≤ items.length
      then readMapEntry (byteAt items (2 * k)) (byteAt items (2 * k + 1)) else none
    let entry := fun k => (item k).getD { primary := none, alternate := none }
    s.applySection 1 items =
      ({ s with mapA := (List.range 96).map entry,
                mapB := (List.range 96).map fun k => entry (96 + k) },
       (List.range 192).countP fun k => (item k).isNone)) ∧
  -- CALENDAR
  (∀ (s : State) (items : List Byte),
    let all := readEntries 48 items
    s.applySection 2 items =
      (s.setBody { s.body with cal := { s.body.cal with entries := all.map (·.1) } },
       (all.map (·.2)).sum)) ∧
  (∀ (n : Nat) (x : Byte) (rest : List Byte),
    readEntries 0 rest = [] ∧
    readEntries (n + 1) [] = (Entry.cleared, 1) :: readEntries n [] ∧
    readEntries (n + 1) (0 :: rest) = (Entry.cleared, 0) :: readEntries n rest ∧
    (x ≠ 0 → rest.length < 33 →
      readEntries (n + 1) (x :: rest) = (Entry.cleared, 1) :: readEntries n []) ∧
    (x ≠ 0 → 33 ≤ rest.length →
      (parseEntryFields (rest.take 33) 0 = none →
        readEntries (n + 1) (x :: rest) = (Entry.cleared, 1) :: readEntries n (rest.drop 33)) ∧
      ∀ enabled f, parseEntryFields (rest.take 33) 0 = some (enabled, f) →
        readEntries (n + 1) (x :: rest) =
          ({ fields := some f, enabled := enabled, next := none, lastFired := none, active := none,
             lastOutcome := none, launched := 0, missed := 0, overlap := 0, refused := 0 }, 0) ::
          readEntries n (rest.drop 33))) ∧
  -- TUNES
  (∀ (s : State) (k : Nat) (items : List Byte), 3 ≤ k →
    s.applySection k items = s.loadSlots (byteAt items 0) (items.drop 1) []) ∧
  ∀ (s : State) (n : Nat) (bytes : List Byte) (named : List Nat),
    let slot := byteAt bytes 0
    let length := wordAt bytes 1
    let m := byteAt bytes 3
    let q := byteAt bytes 4
    let gap := wordAt bytes 5
    let crc := wordAt bytes 7
    let records := records3 ((bytes.drop 9).take (3 * length))
    let later := (bytes.drop 9).drop (3 * length)
    let blocks := s.body.freeBlocks.take ((length + 63) / 64)
    let passes := slot ≤ 63 ∧ 1 ≤ length ∧ length ≤ 4096 ∧ 1 ≤ m ∧ m ≤ 31 ∧ q ≤ 7 ∧ gap ≤ 4095 ∧
      slot ∉ named ∧ (length + 63) / 64 ≤ s.body.freeBlocks.length ∧
      (∀ r ∈ records, byteAt r 0 % 128 ≤ 95) ∧ (crc16 records.flatten).toNat = crc
    -- R126, R209: three bytes for a record, at its place in the blocks
    (∀ x y z rest, records3 (x :: y :: z :: rest) = [x, y, z] :: records3 rest) ∧ records3 [] = [] ∧
    (∀ (m : Memory) (blocks : List Nat) (i : Nat) (x y z : Byte) (rest : List (List Byte)),
      let a := 3 * (64 * blocks.getD (i / 64) 0 + i % 64)
      m.writeRecords blocks i [] = m ∧
      m.writeRecords blocks i ([x, y, z] :: rest) =
        Memory.writeRecords (((m.write a x).write (a + 1) y).write (a + 2) z) blocks (i + 1) rest) ∧
    s.loadSlots 0 bytes named = (s, 0) ∧
    (bytes.length < 9 + 3 * length → s.loadSlots (n + 1) bytes named = (s, n + 1)) ∧
    (9 + 3 * length ≤ bytes.length → ¬ passes →
      let r := s.loadSlots n later (slot :: named)
      s.loadSlots (n + 1) bytes named = (r.1, r.2 + 1)) ∧
    (9 + 3 * length ≤ bytes.length → passes → s.body.slots.length = 64 →
      s.loadSlots (n + 1) bytes named = State.loadSlots n later (slot :: named)
        { s with
          memory := s.memory.writeRecords blocks 0 records
          body := s.body.setSlot slot
            { state := .ready, length := some length, tempo := some (m, q), passGap := some gap,
              blocks := blocks, written := none, pitches := some (pitchSet records),
              ticks := some (totalTicks records), crc := some (BitVec.ofNat 16 crc), users := 0 } })

/-! ### The Time Base -/

/-- R6, R205: when a telegram passes its check, and what time it names. -/
def Obligations.TelegramCheckIsExact : Prop :=
  ∀ (bytes : List Byte) (w : TowerTime), readTelegram bytes = some w ↔
    bytes.length = 9 ∧ byteAt bytes 0 = 165 ∧ (bytes.map BitVec.toNat).sum % 256 = 0 ∧
    byteAt bytes 1 ≤ 23 ∧ byteAt bytes 2 ≤ 59 ∧ byteAt bytes 3 ≤ 59 ∧ byteAt bytes 4 ≤ 6 ∧
    byteAt bytes 7 % 2 = 1 ∧
    w = { day := 256 * byteAt bytes 5 + byteAt bytes 6, weekday := byteAt bytes 4,
          ms := (byteAt bytes 1 * 3600 + byteAt bytes 2 * 60 + byteAt bytes 3) * 1000 }

/-- R6, R206: telegrams and their bytes. That the row of a whole telegram ends one begun byte by byte, and that
a byte taken before the timeout's row still joins the begun telegram, is deduced (log 17). -/
def Obligations.TelegramsAreHeldOrCountedBad : Prop :=
  ∀ s : State, s.rst.held = false →
    let bad : State := { s with time := { s.time with
      badTelegram := s.time.badTelegram + 1, held := none, rx := [] } }
    (∀ bytes w, readTelegram bytes = some w →
      exec (.telegram bytes) s = .next { s with time := { s.time with
        telegrams := s.time.telegrams + 1, rx := [],
        held := some { time := w, arrival := s.time.runTime } } }) ∧
    (∀ bytes, readTelegram bytes = none → exec (.telegram bytes) s = .next bad) ∧
    (s.time.rx = [] →
      exec (.telegramByteReceived 165) s = .next { s with time := { s.time with
        rx := [165], rxLast := s.time.runTime } } ∧
      exec (.telegramByteReceived 255) s = .next s ∧
      ∀ x : Byte, x ≠ 165 → x ≠ 255 → exec (.telegramByteReceived x) s = .next bad) ∧
    (∀ x : Byte, s.time.rx ≠ [] → s.time.rx.length < 8 →
      exec (.telegramByteReceived x) s = .next { s with time := { s.time with
        rx := s.time.rx ++ [x], rxLast := s.time.runTime } }) ∧
    (∀ x : Byte, s.time.rx.length = 8 →
      exec (.telegramByteReceived x) s = exec (.telegram (s.time.rx ++ [x])) s) ∧
    (s.time.rx ≠ [] → s.time.rxLast + 161 ≤ s.time.runTime →
      exec .telegramByteTimeout s = .next bad)

/-- R7, R8: a mark with no telegram, or with a stale one, is an orphan and has no other effect; an accepted
mark in UNSET starts Tower Time. -/
def Obligations.MarkIsOrphanedOrStartsTowerTime : Prop :=
  ∀ s : State, s.rst.held = false →
    (s.time.held = none →
      exec .mark s = .next { s with time := { s.time with
        orphanMark := s.time.orphanMark + 1 } }) ∧
    (∀ h, s.time.held = some h → h.arrival + 8800 < s.time.runTime →
      exec .mark s = .next { s with time := { s.time with
        orphanMark := s.time.orphanMark + 1, held := none } }) ∧
    (∀ h, s.time.held = some h → s.time.runTime ≤ h.arrival + 8800 → s.time.tower = none →
      let u : State := { s with time := { s.time with
        marks := s.time.marks + 1, held := none, lastMark := some s.time.runTime,
        tower := some h.time, phase := 0, clock := .locked } }
      exec .mark s = .next ((u.noticed .clockState).act fun e b => b.timeChange e none h.time))

/-- R9 to R11: an accepted mark in HOLDOVER or LOCKED, by the size of the offset it measures. The model's
choices: a step clears the withheld millisecond, and a mark that drops or replaces the correction leaves it
(log 14); the whole second that a pending load waits for is a flag, which goes with the load (log 15). -/
def Obligations.MarkDisciplinesTowerTime : Prop :=
  ∀ (s : State) (h : HeldTelegram) (v : TowerTime), s.rst.held = false → s.time.held = some h →
    s.time.runTime ≤ h.arrival + 8800 → s.time.tower = some v →
    let offset : Int := ((h.time.day * 86400000 + h.time.ms : Nat) : Int) -
      ((v.day * 86400000 + v.ms : Nat) : Int)
    let t := s.time.measured offset
    let locked := fun t' : TimeBase =>
      if s.time.clock = .holdover then ({ s with time := t' } : State).noticed .clockState
      else { s with time := t' }
    let slewed := if offset.natAbs ≤ 2 then { t with slew := 0 }
      else { t with slew := offset,
                    slewStart := if s.time.slew = 0 then s.time.runTime else s.time.slewStart }
    (offset.natAbs ≤ 1000 → ¬ (v.day = h.time.day ∧ v.weekday ≠ h.time.weekday) →
      exec .mark s = .next (locked slewed)) ∧
    (offset.natAbs ≤ 1000 → v.day = h.time.day → v.weekday ≠ h.time.weekday →
      exec .mark s = .next
        ((locked { slewed with tower := some { v with weekday := h.time.weekday } }).act
          fun e b => b.recomputeAll e)) ∧
    (1000 < offset.natAbs →
      exec .mark s = .next (((locked (t.stepped h.time offset .mark)).noticed .clockStep).act
        fun e b => b.timeChange e (some v) h.time))

/-- R5: the holdover deadline, 28,000 eighths after the last accepted mark in LOCKED. That the row has no
effect in another state is the model's choice (log 4). -/
def Obligations.HoldoverDeadlineLeavesLocked : Prop :=
  ∀ s : State, s.rst.held = false →
    (∀ m, s.time.clock = .locked → s.time.lastMark = some m → m + 28000 ≤ s.time.runTime →
      exec .holdoverDeadline s = .next
        (({ s with time := { s.time with clock := .holdover } } : State).noticed .clockState)) ∧
    (s.time.clock ≠ .locked → exec .holdoverDeadline s = .next s)

/-- R10, R13, R154: the end of a slew interval of 512 eighths applies one millisecond of the correction. How
a millisecond is withheld is the model's choice (log 14), and so is how a whole second and a wrap are held
(log 15). -/
def Obligations.SlewIntervalAppliesOneMillisecond : Prop :=
  ∀ s : State, s.rst.held = false → s.time.slewStart + 512 ≤ s.time.runTime →
    (0 < s.time.slew →
      let t : TimeBase := { s.time with
        slew := s.time.slew - 1, slewStart := s.time.slewStart + 512 }
      exec .slewIntervalEnd s = .next { s with time := match s.time.tower with
        | none => t
        | some w => t.msPassed w }) ∧
    (s.time.slew < 0 →
      exec .slewIntervalEnd s = .next { s with time := { s.time with
        slew := s.time.slew + 1, slewStart := s.time.slewStart + 512, withhold := true } })

/-- R11, R13: at the whole second a pending load becomes Tower Time, as a step from SET-TIME. That the whole
second waits as a flag is the model's choice (log 15), and so is that a step clears the withheld millisecond
(log 14). -/
def Obligations.WholeSecondLoadsPendingTime : Prop :=
  ∀ (s : State) (w v : TowerTime), s.rst.held = false → s.time.pendingLoad = some w →
    s.time.wholeSecond = true → s.time.tower = some v →
    let size : Int := ((w.day * 86400000 + w.ms : Nat) : Int) -
      ((v.day * 86400000 + v.ms : Nat) : Int)
    let u : State := { s with time := TimeBase.stepped { s.time with
      pendingLoad := none, wholeSecond := false, loadStatus := .loaded } w size .setTime }
    (size = 0 → exec .pendingLoadWholeSecond s = .next u) ∧
    (size ≠ 0 → exec .pendingLoadWholeSecond s = .next
      ((u.noticed .clockStep).act fun e b => b.timeChange e (some v) w))

/-- R154: at the wrap of the day count every last fired occurrence becomes absent, and every next
occurrence is computed. That a reached wrap waits as a flag, which the row clears, is the model's choice
(log 15). -/
def Obligations.DayCountWrapForgetsLastFired : Prop :=
  ∀ s : State, s.rst.held = false → s.time.dayWrapped = true →
    exec .dayCountWrap s = .next (State.act
      { s with
        time := { s.time with dayWrapped := false }
        body := { s.body with cal := { s.body.cal with
          entries := s.body.cal.entries.map fun (x : Entry) => { x with lastFired := none } } } }
      (fun e b => b.recomputeAll e))

/-- R12: SET-TIME in each clock state. -/
def Obligations.SetTimeFollowsClockState : Prop :=
  ∀ (s : State) (p : List Byte) (w : TowerTime), Heard s p → parseSetTime p = some w →
    (s.time.clock = .locked →
      exec (.setTime p) s = .next (s.answer p { status := .clockOwnsTime, payload := [] })) ∧
    (s.time.clock = .holdover →
      exec (.setTime p) s = .next
        (({ s with time := { s.time with
            pendingLoad := some w, loadStatus := .pendingLoad } } : State).answer p
          { status := .ok, payload := [1] })) ∧
    (s.time.clock = .unset →
      let u : State := { s with time := { s.time with
        tower := some w, phase := 0, clock := .holdover, loadStatus := .loaded } }
      exec (.setTime p) s = .next
        ((((u.heard p).noticed .clockState).act fun e b => b.timeChange e none w).respond
          { status := .ok, payload := [2] }))

/-- R14, R15: SNAPSHOT latches both times and the clock state into an empty snapshot and is answered IGNORED
while one is held; READ-SNAPSHOT returns the held snapshot and empties it, or is answered EMPTY; both
resets empty it, and the next SNAPSHOT latches again. -/
def Obligations.SnapshotLatchesAndEmpties : Prop :=
  (∀ s : State, Heard s [] → s.time.snapshot = none →
    exec (.snapshot []) s = .next
      (({ s with time := { s.time with snapshot := some (Snapshot.mk s.time.tower s.time.runTime s.time.clock) } } :
          State).answer [] { status := .ok, payload := [] })) ∧
  (∀ (s : State) (x : Snapshot), Heard s [] → s.time.snapshot = some x →
    exec (.snapshot []) s = .next (s.answer [] { status := .ignored, payload := [] })) ∧
  (∀ (s : State) (x : Snapshot), Heard s [] → s.time.snapshot = some x →
    ∃ t : State, exec (.readSnapshot []) s = .next t ∧
      t = ({ s with time := { s.time with snapshot := none } } : State).answer []
        { status := .ok,
          payload := optional (fun w => u16 w.day ++ u8 w.weekday ++ u32 w.ms) x.tower ++
            u48 x.runTime ++ u8 x.clock.code } ∧
      ∃ u : State, exec (.snapshot []) t = .next u ∧ u.time.snapshot = some
        { tower := t.time.tower, runTime := t.time.runTime, clock := t.time.clock }) ∧
  (∀ s : State, Heard s [] → s.time.snapshot = none →
    exec (.readSnapshot []) s = .next (s.answer [] { status := .empty, payload := [] })) ∧
  (∀ boards load belfry, (State.powerOn boards load belfry).time.snapshot = none) ∧
  (∀ s : State, s.warm.time.snapshot = none)

/-! ### What a request meets at the port -/

/-- R190, R191, R203: a payload above 248 bytes has no frame; while LOADING every request is answered
STARTING; operands that are not read are answered BAD-OPERAND. None of them reaches an owner. And which
payloads each command's operands are read from, field by field and range by range (R12, R18, R20, R32, R77,
R79, R119, R122, R129, R131, R132, R138, R139, R141, R143, R144, R155, R158, R169, R174, R186, R187, R194,
R204, R209). The model's: that such a payload is taken as a BAD-FRAME, and that the operand is a payload (log
8); the layout of PLAY-NOW (log 11); that every field is checked whatever the kind (log 12); the N beside a tempo
of DEFAULT, checked and kept (log 56); yes is 0 (log 9). -/
def Obligations.RequestsMeetThePort : Prop :=
  (∀ (c : Instr) (p : List Byte) (s : State), c.payload = some p → s.rst.held = false →
    (248 < p.length →
      exec c s = .next (s.setPort { s.body.port.heard p with
        requests := s.body.port.requests
        badFrames := s.body.port.badFrames + 1
        response := some { status := .badFrame, payload := [] } })) ∧
    (p.length ≤ 248 → s.body.port.loading = true →
      exec c s = .next (s.answer p { status := .starting, payload := [] })) ∧
    (p.length ≤ 248 → s.body.port.loading = false → c.operandsRead = false →
      exec c s = .next (s.answer p { status := .badOperand, payload := [] }))) ∧
  -- the forms that fields take
  (∀ (p : List Byte) (i : Nat),
    byteAt p i = (p.getD i 0).toNat ∧ wordAt p i = 256 * byteAt p i + byteAt p (i + 1) ∧
    longAt p i = 65536 * wordAt p i + wordAt p (i + 2) ∧ signedAt p i = (p.getD i 0).toInt) ∧
  (∀ n : Nat,
    (∀ x, readYesNo n = some x ↔ (n = 0 ∧ x = true) ∨ (n = 1 ∧ x = false)) ∧
    (∀ x, readMapId n = some x ↔ (n = 0 ∧ x = .a) ∨ (n = 1 ∧ x = .b)) ∧
    (∀ x, readPolicy n = some x ↔ (n = 0 ∧ x = .defer) ∨ (n = 1 ∧ x = .drop)) ∧
    (∀ x, readClaimKind n = some x ↔ (n = 0 ∧ x = .whole) ∨ (n = 1 ∧ x = .partialClaim)) ∧
    (∀ x, readEntryKind n = some x ↔ (n = 0 ∧ x = .tune) ∨ (n = 1 ∧ x = .toll)) ∧
    (∀ x, readRecurrenceKind n = some x ↔
      (n = 0 ∧ x = .once) ∨ (n = 1 ∧ x = .daily) ∨ (n = 2 ∧ x = .hourly)) ∧
    (∀ x, readLatency n = some x ↔ (n = 0 ∧ x = .equal) ∨ (n = 1 ∧ x = .direct)) ∧
    (∀ x, readBellOrNone n = some x ↔ (n = 255 ∧ x = none) ∨ (n ≤ 55 ∧ x = some n)) ∧
    ∀ hammer x, readPlacement n hammer = some x ↔
      (n = 0 ∧ hammer = 0 ∧ x = none) ∨ (1 ≤ n ∧ n ≤ 7 ∧ hammer ≤ 7 ∧ x = some (n, hammer))) ∧
  ∀ p : List Byte,
    let b := byteAt p
    let w := wordAt p
    -- no operands, or one number
    (parseNothing p = some () ↔ p.length = 0) ∧
    (∀ bound n, parseByte bound p = some n ↔ p.length = 1 ∧ n = b 0 ∧ n ≤ bound) ∧
    -- SET-TIME
    (∀ t, parseSetTime p = some t ↔ p.length = 7 ∧ b 2 ≤ 6 ∧ longAt p 3 ≤ 86399999 ∧
      t = { day := w 0, weekday := b 2, ms := longAt p 3 }) ∧
    -- SET-BELL, and the records of BELLS
    (∀ i c, parseCalibration p i = some c ↔
      readPlacement (b i) (b (i + 1)) = some c.placement ∧
      c = { placement := c.placement, floor := w (i + 2), ceiling := w (i + 4), depth := b (i + 6),
            softSeed := w (i + 7), loudSeed := w (i + 9), window := b (i + 11),
            mask := b (i + 12), recovery := w (i + 13), p1 := b (i + 15), p15 := b (i + 16),
            missLimit := b (i + 17) } ∧
      40 ≤ c.floor ∧ c.floor < c.ceiling ∧ c.ceiling ≤ 4000 ∧
      (c.depth = 1 ∨ c.depth = 2 ∨ c.depth = 4 ∨ c.depth = 8) ∧
      128 ≤ c.window ∧ c.mask ≤ 127 ∧ c.recovery ≤ 8000 ∧ 1 ≤ c.p1 ∧ c.p1 ≤ c.p15 ∧
      1 ≤ c.missLimit ∧ c.missLimit ≤ 15 ∧ c.floor ≤ c.softSeed ∧ c.softSeed ≤ c.ceiling ∧
      c.floor ≤ c.loudSeed ∧ c.loudSeed ≤ c.ceiling) ∧
    (∀ n c, parseSetBell p = some (n, c) ↔
      p.length = 19 ∧ n = b 0 ∧ n ≤ 55 ∧ parseCalibration p 1 = some c) ∧
    -- TEST-STRIKE, SET-QUEUE
    (∀ n f, parseTestStrike p = some (n, f) ↔
      p.length = 2 ∧ n = b 0 ∧ n ≤ 55 ∧ f = b 1 ∧ 1 ≤ f ∧ f ≤ 15) ∧
    (∀ quotas horizon late, parseSetQueue p = some (quotas, horizon, late) ↔
      p.length = 11 ∧ quotas = (List.range 7).map b ∧ (∀ q ∈ quotas, 8 ≤ q ∧ q ≤ 224) ∧
      horizon = w 7 ∧ 250 ≤ horizon ∧ horizon ≤ 4000 ∧ late = w 9 ∧ late ≤ 500) ∧
    -- the fields of a performance, PLAY-NOW, STOP-PLAYER
    (∀ i f, parsePerf p i = some f ↔
      readMapId (b (i + 1)) = some f.map ∧ readYesNo (b (i + 13)) = some f.preemptive ∧
      readClaimKind (b (i + 14)) = some f.claimKind ∧ readPolicy (b (i + 17)) = some f.policy ∧
      f = { slot := b i, map := f.map, transposition := signedAt p (i + 2),
            tempoM := if b (i + 3) = 0 then none else some (b (i + 3)),
            tempoN := b (i + 4), repeatCount := b (i + 5), forceOffset := signedAt p (i + 6),
            tollBell := b (i + 7), strokes := if b (i + 8) = 0 then none else some (b (i + 8)),
            interval := w (i + 9), tollForce := b (i + 11), priority := b (i + 12),
            preemptive := f.preemptive, claimKind := f.claimKind, waitLimit := w (i + 15),
            policy := f.policy, slack := w (i + 18) } ∧
      f.slot ≤ 63 ∧ -24 ≤ f.transposition ∧ f.transposition ≤ 24 ∧ b (i + 3) ≤ 31 ∧
      f.tempoN ≤ 7 ∧ -7 ≤ f.forceOffset ∧ f.forceOffset ≤ 7 ∧ f.tollBell ≤ 55 ∧
      b (i + 8) ≤ 60 ∧ 500 ≤ f.interval ∧ f.interval ≤ 10000 ∧ 1 ≤ f.tollForce ∧
      f.tollForce ≤ 15 ∧ f.priority ≤ 7 ∧ f.waitLimit ≤ 600 ∧ f.slack ≤ 2000) ∧
    (∀ named kind f, parsePlayNow p = some (named, kind, f) ↔
      p.length = 22 ∧ b 0 ≤ 7 ∧ named = (if b 0 = 0 then none else some (b 0)) ∧
      readEntryKind (b 1) = some kind ∧ parsePerf p 2 = some f) ∧
    (∀ q v, parseStopPlayer p = some (q, v) ↔
      p.length = 2 ∧ q = b 0 ∧ 1 ≤ q ∧ q ≤ 7 ∧
      ((b 1 = 0 ∧ v = .stop) ∨ (b 1 = 1 ∧ v = .finish))) ∧
    -- the Tune Store and the maps
    (∀ o, parseOpenTune p = some o ↔
      p.length = 7 ∧ o = { slot := b 0, length := w 1, m := b 3, n := b 4, gap := w 5 } ∧
      o.slot ≤ 63 ∧ 1 ≤ o.length ∧ o.length ≤ 4096 ∧ 1 ≤ o.m ∧ o.m ≤ 31 ∧ o.n ≤ 7 ∧
      o.gap ≤ 4095) ∧
    (∀ n offset records, parseWriteTune p = some (n, offset, records) ↔
      n = b 0 ∧ n ≤ 63 ∧ offset = w 1 ∧ offset ≤ 4095 ∧ 1 ≤ b 3 ∧ b 3 ≤ 60 ∧
      p.length = 4 + 3 * b 3 ∧ records.length = b 3 ∧
      (∀ k, (h : k < records.length) →
        records[k] = (p.drop (4 + 3 * k)).take 3 ∧ b (4 + 3 * k) % 128 ≤ 95)) ∧
    (∀ n crc, parseCloseTune p = some (n, crc) ↔
      p.length = 3 ∧ n = b 0 ∧ n ≤ 63 ∧ crc = BitVec.ofNat 16 (w 1)) ∧
    (∀ primary alternate x, readMapEntry primary alternate = some x ↔
      readBellOrNone primary = some x.primary ∧ readBellOrNone alternate = some x.alternate ∧
      (x.primary ≠ none → x.primary ≠ x.alternate)) ∧
    (∀ m first es, parseWriteMap p = some (m, first, es) ↔
      readMapId (b 0) = some m ∧ first = b 1 ∧ first ≤ 95 ∧ 1 ≤ b 2 ∧ first + b 2 ≤ 96 ∧
      p.length = 3 + 2 * b 2 ∧ es.length = b 2 ∧
      ∀ k, (h : k < es.length) → readMapEntry (b (3 + 2 * k)) (b (4 + 2 * k)) = some es[k]) ∧
    (∀ m first count, parseReadMap p = some (m, first, count) ↔
      p.length = 3 ∧ readMapId (b 0) = some m ∧ first = b 1 ∧ first ≤ 95 ∧ count = b 2 ∧
      1 ≤ count ∧ first + count ≤ 96) ∧
    -- the Calendar
    (∀ i r, parseRecurrence p i = some r ↔
      readRecurrenceKind (b i) = some r.kind ∧
      r = { kind := r.kind, day := w (i + 1), mask := b (i + 3), hour := b (i + 4),
            minute := b (i + 5), second := b (i + 6), firstHour := b (i + 7),
            lastHour := b (i + 8) } ∧
      r.minute ≤ 59 ∧ r.second ≤ 59 ∧ (r.kind ≠ .once → 1 ≤ r.mask ∧ r.mask ≤ 127) ∧
      (r.kind ≠ .hourly → r.hour ≤ 23) ∧
      (r.kind = .hourly → r.firstHour ≤ r.lastHour ∧ r.lastHour ≤ 23)) ∧
    (∀ i enabled f, parseEntryFields p i = some (enabled, f) ↔
      readYesNo (b i) = some enabled ∧ readEntryKind (b (i + 1)) = some f.kind ∧
      parseRecurrence p (i + 2) = some f.recurrence ∧ b (i + 11) ≤ 7 ∧
      f.player = (if b (i + 11) = 0 then none else some (b (i + 11))) ∧
      parsePerf p (i + 12) = some f.perf ∧ readYesNo (b (i + 32)) = some f.notice) ∧
    (∀ n enabled f, parseWriteEntry p = some (n, enabled, f) ↔
      p.length = 34 ∧ n = b 0 ∧ n ≤ 47 ∧ parseEntryFields p 1 = some (enabled, f)) ∧
    (∀ preRoll catchUp margin, parseSetCalendar p = some (preRoll, catchUp, margin) ↔
      p.length = 6 ∧ preRoll = w 0 ∧ 500 ≤ preRoll ∧ preRoll ≤ 10000 ∧ catchUp = w 2 ∧
      catchUp ≤ 600 ∧ margin = w 4 ∧ 100 ≤ margin ∧ margin ≤ 5000) ∧
    -- the console, the bus and the notices
    (∀ c, parseSetConsole p = some c ↔
      p.length = 11 ∧ readYesNo (b 0) = some c.enable ∧ readYesNo (b 2) = some c.preemptive ∧
      readLatency (b 3) = some c.latency ∧ readMapId (b 8) = some c.map ∧
      c = { enable := c.enable, priority := b 1, preemptive := c.preemptive,
            latency := c.latency, delay := w 4, slack := w 6, map := c.map, hold := b 9,
            resume := b 10 } ∧
      c.priority ≤ 7 ∧ c.delay ≤ 500 ∧ c.slack ≤ 2000 ∧ 8 ≤ c.hold ∧ c.hold ≤ 64 ∧
      c.resume < c.hold) ∧
    (∀ v, parseEndConsole p = some v ↔
      p.length = 1 ∧ ((b 0 = 0 ∧ v = .drain) ∨ (b 0 = 1 ∧ v = .cut))) ∧
    (∀ x, parseSetBus p = some x ↔ p.length = 2 ∧ x = w 0 ∧ 16 ≤ x ∧ x ≤ 400) ∧
    (∀ x, parseReadBus p = some x ↔
      (p.length = 1 ∧ ((b 0 = 0 ∧ x = .status) ∨ (b 0 = 3 ∧ x = .boards))) ∨
      (p.length = 2 ∧ b 1 ≤ 55 ∧
        ((b 0 = 1 ∧ x = .orders (b 1)) ∨ (b 0 = 2 ∧ x = .hammers (b 1))))) ∧
    (∀ x : BitVec 13, parseNotices p = some x ↔ p.length = 2 ∧ x.toNat = w 0)

/-- R16, R31, R78, R100, R123, R134, R135, R141, R157, R175, R187, R194, R200, R204: a read is answered OK with
what it reads, item by item, and nothing but the answer changes. The layouts that the spec does not give are
the model's (log 10), and so are yes as 0 (log 9), the absent enabled flag of a cleared entry (log 54), the N
beside a tempo of DEFAULT answered as it was written (log 56), the lamps owed where R165 and R173 differ (log 57),
and a list read past its end (log 43). -/
def Obligations.ReadsAnswerAndChangeNothing : Prop :=
  -- the forms that items take
  (∀ n : Nat, u8 n = [BitVec.ofNat 8 n] ∧ u16 n = u8 (n / 256) ++ u8 n ∧
    u32 n = u16 (n / 65536) ++ u16 (n % 65536) ∧
    u48 n = u16 (n / 4294967296) ++ u32 (n % 4294967296)) ∧
  (∀ i : Int, s8 i = [BitVec.ofInt 8 i] ∧ s48 i = u48 (BitVec.ofInt 48 i).toNat) ∧
  (yesNo true = [0] ∧ yesNo false = [1]) ∧
  (∀ (α : Type) (enc : α → List Byte),
    optional enc none = [0] ∧ ∀ x, optional enc (some x) = 1 :: enc x) ∧
  (∀ (k : Nat) (has : Nat → Bool), (setBytes k has).length = k ∧
    ∀ n < 8 * k, ((setBytes k has).getD (n / 8) 0).getLsbD (n % 8) = has n) ∧
  -- the named choices
  ([ClockState.unset, .holdover, .locked].map ClockState.code = [0, 1, 2] ∧
   [LoadStatus.noLoad, .pendingLoad, .loaded, .discarded].map LoadStatus.code = [0, 1, 2, 3] ∧
   [StepSource.mark, .setTime].map StepSource.code = [0, 1] ∧
   [Band.soft, .loud].map Band.code = [0, 1] ∧
   [Health.ready, .suspect, .failed].map Health.code = [0, 1, 2] ∧
   [FailureCause.noFailure, .misses, .boardFault].map FailureCause.code = [0, 1, 2] ∧
   [HammerState.idle, .ordered, .drive, .mask, .settle].map HammerState.code = [0, 1, 2, 3, 4] ∧
   [Origin.tune, .toll, .console, .test].map Origin.code = [0, 1, 2, 3] ∧
   [StrikeState.queued, .due].map StrikeState.code = [0, 1] ∧
   [ClaimKind.whole, .partialClaim].map ClaimKind.code = [0, 1] ∧
   [ClaimState.noClaim, .pendingClaim, .granted, .partGranted].map ClaimState.code = [0, 1, 2, 3] ∧
   [MapId.a, .b].map MapId.code = [0, 1] ∧ [Policy.defer, .drop].map Policy.code = [0, 1]) ∧
  ([PlayerState.free, .claiming, .playing, .draining].map PlayerState.code = [0, 1, 2, 3] ∧
   [Mode.single, .repeated, .toll, .live].map Mode.code = [0, 1, 2, 3] ∧
   (∀ n, (Launcher.entry n).code = n) ∧ [Launcher.playNow, .console].map Launcher.code = [48, 49] ∧
   [Generation.running, .stalled, .done].map Generation.code = [0, 1, 2] ∧
   [StallReason.horizon, .quota, .cap].map StallReason.code = [0, 1, 2] ∧
   [Fate.completed, .completedPartial, .linkLost, .stopped, .preempted, .claimTimeout, .reset].map
     Fate.playerCode = [0, 1, 2, 3, 4, 5, 6] ∧
   [Fate.completed, .completedPartial, .stopped, .preempted, .claimTimeout, .noPlayer, .noTune, .overlap,
     .missed, .reset].map Fate.entryCode = [0, 1, 2, 3, 4, 5, 6, 7, 8, 9] ∧
   [Fate.completed, .completedPartial, .linkLost, .stopped, .reset].map Fate.sessionCode =
     [0, 1, 2, 3, 4]) ∧
  ([CloseCause.close, .endConsole, .linkLost, .cut].map CloseCause.code = [0, 1, 2, 3] ∧
   [SlotState.empty, .writing, .ready].map SlotState.code = [0, 1, 2] ∧
   [EntryKind.tune, .toll].map EntryKind.code = [0, 1] ∧
   [RecurrenceKind.once, .daily, .hourly].map RecurrenceKind.code = [0, 1, 2] ∧
   [SessionState.off, .live, .closing].map SessionState.code = [0, 1, 2] ∧
   [Latency.equal, .direct].map Latency.code = [0, 1] ∧
   [HeaderResult.notRead, .good, .badHeader, .noMemory].map HeaderResult.code = [0, 1, 2, 3] ∧
   [SectionResult.notRead, .loaded, .loadedWithErrors, .defaults].map SectionResult.code = [0, 1, 2, 3] ∧
   [ResetCause.powerOn, .line, .command].map ResetCause.code = [0, 1, 2]) ∧
  -- the reads
  ∀ (s : State) (p : List Byte), Heard s p →
    let answers := fun (c : Instr) (bytes : List Byte) =>
      exec c s = .next (s.answer p { status := .ok, payload := bytes })
    let counts := fun l : List Counter => l.flatMap fun x => u32 x.toNat
    let tower := fun w : TowerTime => u16 w.day ++ u8 w.weekday ++ u32 w.ms
    let trigger := fun g : Trigger => u16 g.day ++ u32 g.ms
    let bells := fun has : Nat → Bool => setBytes 7 has
    let noneAs255 := fun x : Option Nat => u8 (x.getD 255)
    -- READ-CLOCK
    (p = [] →
      let t := s.time
      answers (.readClock p) (u8 t.clock.code ++ optional tower t.tower ++ u48 t.runTime ++
        optional s48 t.lastOffset ++ optional (fun x => s48 x.1 ++ u8 x.2.code) t.lastStep ++
        s48 t.slew ++ optional tower t.pendingLoad ++ u8 t.loadStatus.code ++ yesNo t.held.isSome ++
        counts [t.telegrams, t.badTelegram, t.marks, t.orphanMark, t.steps])) ∧
    -- READ-BELL
    (∀ n, p = u8 n → n ≤ 55 →
      let r := s.bell n
      let ring := fun x : BandRing => x.values.flatMap u16 ++ u8 x.position ++
        u16 (((List.range r.depth).map fun j => x.values.getD ((x.position + 7 - j) % 8) 0).sum / r.depth)
      answers (.readBell p) (u8 n ++ yesNo r.present ++
        (match r.placement with
          | none => u8 0 ++ u8 0
          | some x => u8 x.1 ++ u8 x.2) ++ yesNo r.calibrated ++
        u16 r.floor ++ u16 r.ceiling ++ u8 r.depth ++
        ring r.soft ++ ring r.loud ++
        u8 r.window ++ u8 r.mask ++ u16 r.recovery ++ u8 r.p1 ++ u8 r.p15 ++
        u8 r.missLimit ++ u8 r.missRun ++ u8 r.health.code ++ u8 r.cause.code ++
        yesNo r.faultReported ++ yesNo r.lockout ++ yesNo r.boardOnline ++ yesNo r.available ++
        optional u48 r.lastContact ++ counts [r.actuations, r.contacts, r.presumed, r.rejected,
          r.lateContacts, r.bounces, r.strays])) ∧
    -- READ-QUEUE
    (∀ n, p = u8 n → n ≤ 255 →
      let c := s.body.sched
      let of := fun q => c.queue.countP fun k => k.player == some q
      answers (.readQueue p) (counts [c.admitted, c.fired, c.withdrawn, c.discardedLate,
          c.discardedBlocked, c.discardedUnavailable] ++ u16 c.queue.length ++
        ([0, 1, 2, 3, 4, 5, 6, 7].flatMap fun q => u16 (of q)) ++
        u16 (c.queue.countP fun k => k.origin == .test) ++
        u8 (of 1 + of 2 + of 3 + of 4 + of 5 + of 6 + of 7) ++
        c.quotas.flatMap u8 ++ u16 (c.horizon / 8) ++ u16 (c.lateLimit / 8) ++
        ((c.queue.drop n).take 4).flatMap fun k => u8 k.bell ++ u8 k.force ++ u8 k.band.code ++
          u48 k.sounding ++ u48 k.fire ++ u8 k.origin.code ++ optional u8 k.player ++
          optional (fun x => u32 x.1 ++ u16 x.2) k.tunePosition ++ u16 k.deferral ++
          u16 k.admittedLate ++ u48 k.clear ++ u8 k.state.code)) ∧
    -- READ-PLAYER
    (∀ n, p = u8 n → n ≤ 7 →
      let x := s.body.player n
      let of := fun {α : Type} (enc : α → List Byte) (get : Performance → Option α) =>
        optional enc (x.perf.bind get)
      let c := s.body.claim n
      let claimed := fun {α : Type} (enc : α → List Byte) (get : ClaimBody → Option α) =>
        optional enc (c.body.bind get)
      answers (.readPlayer p) (
        -- state
        (u8 x.state.code ++ u8 x.generation.code ++ optional (fun r => u8 r.code) x.stallReason ++
          optional u48 x.wake) ++
        -- performance
        (of u8 (fun f => f.origin.code) ++ of u8 (fun f => f.mode.code) ++ of u8 (·.slot) ++
          of u8 (fun f => f.map.map (·.code)) ++ of s8 (fun f => f.transposition) ++
          of s8 (fun f => f.forceOffset) ++ of u8 (·.tickPeriod) ++
          of u8 (fun f => f.toll.map (·.bell)) ++ of u8 (fun f => f.toll.map (·.strokes)) ++
          of u16 (fun f => f.toll.map (·.interval)) ++ of u8 (fun f => f.toll.map (·.force))) ++
        -- position
        (of u32 (fun f => f.passNumber.toNat) ++ of u8 (fun f => f.passesRemaining) ++
          of u16 (fun f => f.recordIndex) ++ of u32 (fun f => f.tickPosition) ++
          of u8 (fun f => f.strokeIndex) ++ of u48 (·.anchor) ++ of u48 (·.nextSounding)) ++
        -- settings and flags
        (of u8 (fun f => f.claimKind.code) ++ of u8 (fun f => f.priority) ++
          of yesNo (fun f => f.preemptive) ++ of u16 (·.waitLimit) ++ of u8 (fun f => f.policy.code) ++
          of u16 (fun f => f.slack) ++ yesNo x.noticeOnEnd) ++
        (yesNo x.finish ++ yesNo x.lateStart ++ yesNo x.lost) ++
        -- queue, counters, outcome
        (u16 (s.body.queuedCount n) ++
          (if n = 0 then [0] else 1 :: u8 (s.body.sched.quotas.getD (n - 1) 0))) ++
        counts [x.recordsRead, x.admitted, x.deferred, x.muted, x.refusedRecovery, x.refusedLate,
          x.refusedUnavailable, x.refusedFull] ++
        optional (fun f => u8 f.playerCode) x.lastOutcome ++
        -- claims
        (claimed (fun l : List Nat => bells l.contains) (fun k => some k.bells) ++ claimed u8 (fun k => k.kind.code) ++
          claimed u8 (fun k => k.priority) ++ claimed yesNo (fun k => k.preemptive) ++
          claimed u16 (·.waitLimit) ++ optional u48 c.deadline ++ optional u48 c.claimInstant ++
          optional u48 c.grantInstant ++ u8 c.state.code) ++
        bells (fun i => decide (i < 56) && s.body.holder i == some n) ++
        bells (fun i => decide (i < 56) && (s.body.waitingOn i).contains n) ++
        (u8 s.body.claims.rotation.length ++ s.body.claims.rotation.flatMap u8) ++
        s.body.claims.holders.flatMap noneAs255)) ∧
    -- READ-TUNE-INFO
    (∀ n, p = u8 n → n ≤ 63 →
      let x := s.body.slot n
      answers (.readTuneInfo p) (u8 x.state.code ++ optional u16 x.length ++
        optional (fun t => u8 t.1 ++ u8 t.2) x.tempo ++ optional u16 x.passGap ++
        (u8 x.blocks.length ++ x.blocks.flatMap u8) ++ optional u16 x.written ++
        optional (fun l => setBytes 12 l.contains) x.pitches ++ optional u32 x.ticks ++
        optional (fun w => u16 w.toNat) x.crc ++ u8 x.users)) ∧
    -- READ-STORE
    (p = [] →
      let count := fun y : SlotState => u8 (s.body.slots.countP fun x => x.state == y)
      let writing := (List.range 64).find? fun k => (s.body.slot k).state == .writing
      answers (.readStore p) (u16 ((List.range 256).countP fun k =>
          !s.body.slots.any fun x => x.blocks.contains k) ++
        count .empty ++ count .writing ++ count .ready ++
        optional (fun k => u8 k ++ u16 ((s.body.slot k).length.getD 0) ++
          u16 ((s.body.slot k).written.getD 0)) writing ++
        u8 (s.body.slots.countP fun x => x.state == .ready && decide (0 < x.users)))) ∧
    -- READ-MAP
    (∀ m first count, parseReadMap p = some (m, first, count) →
      answers (.readMap p) ((((match m with | .a => s.mapA | .b => s.mapB).drop first).take
        count).flatMap fun x : MapEntry => noneAs255 x.primary ++ noneAs255 x.alternate)) ∧
    -- READ-ENTRY
    (∀ n, p = u8 n → n ≤ 47 →
      let x := s.body.entry n
      let of := fun {α : Type} (enc : α → List Byte) (get : EntryFields → α) =>
        optional enc (x.fields.map get)
      let early := fun g : Trigger =>
        let pre := s.body.cal.preRoll
        if pre ≤ g.ms then u16 g.day ++ u32 (g.ms - pre)
        else u16 ((g.day + 65535) % 65536) ++ u32 (g.ms + 86400000 - pre)
      answers (.readEntry p) (yesNo x.fields.isSome ++
        (of yesNo (fun _ => x.enabled) ++ of u8 (fun f => f.kind.code) ++
          of u8 (fun f => f.recurrence.kind.code) ++ of u16 (fun f => f.recurrence.day) ++
          of u8 (fun f => f.recurrence.mask) ++ of u8 (fun f => f.recurrence.hour) ++
          of u8 (fun f => f.recurrence.minute) ++ of u8 (fun f => f.recurrence.second) ++
          of u8 (fun f => f.recurrence.firstHour) ++ of u8 (fun f => f.recurrence.lastHour) ++
          of u8 (fun f => f.player.getD 0) ++ of u8 (fun f => f.perf.slot) ++
          of u8 (fun f => f.perf.map.code) ++ of s8 (fun f => f.perf.transposition) ++
          of (fun f => u8 (f.tempoM.getD 0) ++ u8 f.tempoN) (fun f => f.perf) ++
          of u8 (fun f => f.perf.repeatCount) ++ of s8 (fun f => f.perf.forceOffset) ++
          of u8 (fun f => f.perf.tollBell) ++ of u8 (fun f => f.perf.strokes.getD 0) ++
          of u16 (fun f => f.perf.interval) ++ of u8 (fun f => f.perf.tollForce) ++
          of u8 (fun f => f.perf.priority) ++ of yesNo (fun f => f.perf.preemptive) ++
          of u8 (fun f => f.perf.claimKind.code) ++ of u16 (fun f => f.perf.waitLimit) ++
          of u8 (fun f => f.perf.policy.code) ++ of u16 (fun f => f.perf.slack) ++
          of yesNo (fun f => f.notice)) ++
        optional trigger x.next ++ optional trigger x.lastFired ++ optional u8 x.active ++
        optional (fun y => u8 y.entryCode) x.lastOutcome ++
        counts [x.launched, x.missed, x.overlap, x.refused] ++ optional early x.next)) ∧
    -- READ-CONSOLE
    (p = [] →
      let c := s.body.con
      let k := c.settings
      answers (.readConsole p) (u8 c.session.code ++ optional (fun x => u8 x.code) c.closeCause ++
        optional u48 c.openInstant ++ optional (fun x => u8 x.sessionCode) c.lastOutcome ++
        optional u48 (if c.session = .live then c.lastByte.map (· + 40000) else none) ++
        u8 c.fifo.length ++ yesNo c.hold ++ yesNo c.inFlight ++
        ((c.fifo.take 8).flatMap fun x => (match x.kind with
          | .openSession => [0, 0, 0]
          | .key pitch force => u8 1 ++ (1 :: u8 pitch) ++ (1 :: u8 force)
          | .close => [2, 0, 0]) ++ u48 x.arrival) ++
        setBytes 12 (fun i => c.lamps.getD i .lost == .held) ++
        setBytes 12 (fun i => c.lamps.getD i .lost != c.sentLamps.getD i .lost) ++
        yesNo (c.sentState != some (c.session, if c.session = .off then c.lastOutcome else none)) ++
        yesNo c.refusedOwed ++
        (yesNo k.enable ++ u8 k.priority ++ yesNo k.preemptive ++ u8 k.latency.code ++ u16 k.delay ++
          u16 k.slack ++ u8 k.map.code ++ u8 k.hold ++ u8 k.resume) ++
        counts [c.events, c.malformed, c.overrun, c.ignoredKey, c.openRefused, c.linkLost,
          c.sessions])) ∧
    -- READ-BUS
    (p = u8 0 →
      let u := s.body.bus
      answers (.readBus p) (u16 u.allowance ++ yesNo u.access ++
        (match u.line with
          | .idle => [0, 0]
          | .actuate bell _ _ => [1, 1] ++ u8 bell
          | .poll board _ => [2, 1] ++ u8 board) ++ u8 u.consecutive ++ u8 u.pointer ++
        setBytes 1 (fun n => n != 0 && u.waitingPoll.getD (n - 1) false) ++ u8 u.sendList.length ++
        counts [u.actuatesSent, u.pollsSent, u.pollsOvertaken, u.cancelledAccess, u.cancelledOffline,
          u.cancelledUnavailable, u.noise])) ∧
    (∀ first, first ≤ 55 → p = u8 1 ++ u8 first →
      answers (.readBus p) (((s.body.bus.sendList.drop first).take 8).flatMap fun o =>
        u8 o.bell ++ u8 o.board ++ u8 o.hammer ++ u8 o.pulse ++ u8 o.band.code ++ u48 o.fire ++
        yesNo o.onLine)) ∧
    (∀ first, first ≤ 55 → p = u8 2 ++ u8 first →
      answers (.readBus p) (((s.body.hammers.drop first).take 7).flatMap fun h =>
        u8 h.state.code ++ optional (fun x => u8 x.code) h.band ++ optional u48 h.send ++
        optional u48 h.expiry ++ optional u48 h.contact ++ optional u8 h.missBefore ++
        yesNo h.presumed ++ optional u48 h.timerEnd)) ∧
    (p = u8 3 →
      answers (.readBus p) (s.body.bus.boards.flatMap fun x =>
        yesNo x.online ++ u8 x.missedRun ++ u8 x.replyRun ++ [x.faults] ++
        counts [x.validReplies, x.noReply, x.badReply, x.reports, x.unplacedReports, x.overflow,
          x.wentOffline])) ∧
    -- READ-NOTICES, IDENTIFY
    (p = [] → answers (.readNotices p) (u16 s.body.port.pendingFlags.toNat ++
      u16 s.body.port.enabled.toNat ++ counts s.body.port.raises)) ∧
    (p = [] →
      let x := (s.heard p).body.port
      answers (.identify p) (u8 124 ++ u16 22080 ++ u8 x.boards ++ yesNo x.load ++
        u8 (if x.loading then 0 else 1) ++ u8 x.header.code ++
        (x.sections.flatMap fun r => u8 r.1.code ++ u8 r.2) ++ u8 x.lastCause.code ++
        counts [x.warmResets] ++ u48 s.time.runTime ++
        counts [x.requests, x.badFrames, x.discarded]))

/-! ### The Bell Table -/

/-- R29, R30, R74, R179: LOCK-BELL and UNLOCK-BELL write the lockout; a bell record written is that record with
its availability computed, health becoming FAILED raises BELL-FAILED, and a fall discards the bell's strikes as
UNAVAILABLE and cancels its order, cutting off a frame that is on the line. A rise or a fall in a session
computes again the lamps of the pitches whose console-map entry names the bell (R172), and leaves players,
claims, slots and calendar as they are. What a fall hands on is what the removal of the strikes and then the
cancellation of the order hand on (R39, R69, R75): the strikes in queue order (log 46), and the place of these
events among the events handed on (log 6), are the model's choices. That an entry to IDLE keeps the band is
deduced (log 13). -/
def Obligations.LockoutAndBellWrites : Prop :=
  (∀ (s : State) (n : Nat), Heard s (u8 n) → n ≤ 55 →
    exec (.lockBell (u8 n)) s = .next
      (((s.heard (u8 n)).writeBell n { s.bell n with lockout := true }).finish.respond .plain) ∧
    exec (.unlockBell (u8 n)) s = .next
      (((s.heard (u8 n)).writeBell n { s.bell n with lockout := false }).finish.respond .plain)) ∧
  ∀ (s : State) (i : Nat) (r : Bell),
    let t := s.writeBell i r
    let may := r.present && r.calibrated && !r.lockout && decide (r.cause = .noFailure) && r.boardOnline
    State.Outside s t ∧ t.bells = s.bells.set i { r with available := may } ∧
    t.body.port = (if (s.bell i).health ≠ .failed ∧ r.cause ≠ .noFailure
      then s.body.port.raise .bellFailed else s.body.port) ∧
    (may = (s.bell i).available → t.body = { s.body with port := t.body.port }) ∧
    (may ≠ (s.bell i).available →
      let names := fun k => (s.env.entryOf s.body.con.settings.map k).primary = some i ∨
        (s.env.entryOf s.body.con.settings.map k).alternate = some i
      t.body.players = s.body.players ∧ t.body.claims = s.body.claims ∧ t.body.slots = s.body.slots ∧
      t.body.cal = s.body.cal ∧ t.body.draws = s.body.draws ∧
      (s.body.con.session = .off → t.body.con = s.body.con) ∧
      (s.body.con.session ≠ .off → t.body.con = { s.body.con with
        lamps := s.body.con.lamps.mapIdx fun k v =>
          if names k then (if (s.body.lookup t.env 0 s.body.con.settings.map k).isSome then .held else .lost)
          else v })) ∧
    (may = true → (s.bell i).available = false →
      t.body = { s.body with port := t.body.port, con := t.body.con }) ∧
    (may = false → (s.bell i).available = true →
      t.body = { (s.body.removeAll .unavailable fun k => k.bell == i).cancelOrder i .unavailable with
        port := t.body.port, con := t.body.con } ∧
      t.body.sched = { s.body.sched with
        queue := s.body.sched.queue.filter (fun k => k.bell ≠ i)
        discardedUnavailable := s.body.sched.discardedUnavailable +
          BitVec.ofNat 32 (s.body.sched.queue.countP fun k => k.bell = i) } ∧
      ((∀ o ∈ s.body.bus.sendList, o.bell ≠ i) →
        t.body.bus = s.body.bus ∧ t.body.hammers = s.body.hammers) ∧
      ((∃ o ∈ s.body.bus.sendList, o.bell = i) →
        t.body.bus = { s.body.bus with
          sendList := s.body.bus.sendList.filter (fun o => o.bell ≠ i)
          line := (match s.body.bus.line with
            | .actuate x ends cut => .actuate x ends (cut || x == i)
            | line => line)
          cancelledUnavailable := s.body.bus.cancelledUnavailable + 1 } ∧
        t.body.hammers = if (s.hammer i).state = .ordered then s.body.hammers.set i
            { state := .idle, band := (s.hammer i).band, send := none, expiry := none,
              contact := none, presumed := false, missBefore := none, timerEnd := none }
          else s.body.hammers))

/-- R32, R33: SET-BELL's refusals in their order, and the record it writes. -/
def Obligations.SetBellChecksThenWrites : Prop :=
  ∀ (s : State) (p : List Byte) (n : Nat) (c : Calibration), Heard s p →
    parseSetBell p = some (n, c) →
    let r := s.bell n
    let refused := fun x => exec (.setBell p) s = .next (s.answer p { status := x, payload := [] })
    let badPlace := (∃ x ∈ c.placement, s.body.port.boards < x.1) ∨
      (c.placement ≠ none ∧ ∃ j < 56, j ≠ n ∧ (s.bell j).present = true ∧
        (s.bell j).placement = c.placement)
    let inUse := s.body.holder n ≠ none ∨ (∃ k ∈ s.body.sched.queue, k.bell = n) ∨
      (c.placement ≠ r.placement ∧ (s.hammer n).state ≠ .idle)
    (badPlace → refused .badOperand) ∧
    (¬ badPlace → r.present = false → refused .unavailable) ∧
    (¬ badPlace → r.present = true → inUse → refused .inUse) ∧
    (¬ badPlace → r.present = true → ¬ inUse →
      exec (.setBell p) s = .next (((s.heard p).writeBell n
        { r with
          placement := c.placement, floor := c.floor, ceiling := c.ceiling, depth := c.depth,
          soft := { values := List.replicate 8 c.softSeed, position := 0 },
          loud := { values := List.replicate 8 c.loudSeed, position := 0 },
          window := c.window, mask := c.mask, recovery := c.recovery, p1 := c.p1, p15 := c.p15,
          missLimit := c.missLimit, missRun := 0, cause := .noFailure, calibrated := true,
          boardOnline := c.placement.any fun x => (s.board x.1).online }).finish.respond .plain))

/-- R34. -/
def Obligations.RestoreBellNeedsNoFault : Prop :=
  (∀ (s : State) (n : Nat), Heard s (u8 n) → n ≤ 55 →
    ((s.bell n).faultReported = true →
      exec (.restoreBell (u8 n)) s = .next
        (s.answer (u8 n) { status := .unavailable, payload := [] })) ∧
    ((s.bell n).faultReported = false → ∃ t : State,
      exec (.restoreBell (u8 n)) s = .next t ∧
      t = ((s.heard (u8 n)).writeBell n
        { s.bell n with missRun := 0, cause := .noFailure }).finish.respond .plain ∧
      (n < s.bells.length → (t.bell n).health = .ready ∧ t.bell n =
        { s.bell n with
          missRun := 0, cause := .noFailure
          available := (s.bell n).present && (s.bell n).calibrated && !(s.bell n).lockout &&
            (s.bell n).boardOnline }) ∧
      ∀ j ≠ n, t.bell j = s.bell j)) ∧
  (∀ (s : State) (n : Nat), Heard s (u8 n) → 55 < n → n < 256 →
    exec (.restoreBell (u8 n)) s = .next (s.answer (u8 n) { status := .badOperand, payload := [] })) ∧
  (∀ (r : Bell) (online : Bool) (carried instant : Nat), r.missRun = 0 →
    (r.presume online).missRun = (if online then 1 else 0) ∧
    (r.lateContact carried instant).missRun = 0)

/-- R21 to R28: what a capture, a contact, a presumed strike, a late contact and a fault indication do to a
bell record, the estimate of a band, and the pulse for a force. -/
def Obligations.ReportsChangeTheBellRecord : Prop :=
  ∀ r : Bell,
    (∀ band, let ring := match band with | .soft => r.soft | .loud => r.loud
      r.estimate band = ((List.range r.depth).map fun j =>
        ring.values.getD ((ring.position + 7 - j) % 8) 0).sum / r.depth) ∧
    (∀ f, 1 ≤ f → f ≤ 15 → r.p1 ≤ r.p15 →
      r.pulse f = r.p1 + (r.p15 - r.p1) * (f - 1) / 14 ∧ r.p1 ≤ r.pulse f ∧ r.pulse f ≤ r.p15 ∧
      (f = 15 → r.pulse f = r.p15)) ∧
    (∀ band v, (v < r.floor ∨ r.ceiling < v) →
      r.capture band v = { r with rejected := r.rejected + 1 }) ∧
    (∀ v, r.floor ≤ v → v ≤ r.ceiling →
      r.capture .soft v = { r with soft :=
        { values := r.soft.values.set r.soft.position v, position := (r.soft.position + 1) % 8 } } ∧
      r.capture .loud v = { r with loud :=
        { values := r.loud.values.set r.loud.position v, position := (r.loud.position + 1) % 8 } }) ∧
    (∀ t, r.contactAt t =
      { r with missRun := 0, contacts := r.contacts + 1, lastContact := some t }) ∧
    r.presume false = { r with presumed := r.presumed + 1 } ∧
    (let run := if r.missRun < 15 then r.missRun + 1 else 15
     r.presume true =
      { r with
        presumed := r.presumed + 1, missRun := run
        cause := if r.cause = .noFailure ∧ r.missLimit ≤ run then .misses else r.cause }) ∧
    (∀ carried t, let run := if carried < r.missRun then carried else r.missRun
      r.lateContact carried t =
        { r with
          lateContacts := r.lateContacts + 1, lastContact := some t, missRun := run
          cause := if r.cause = .misses ∧ run < r.missLimit then .noFailure else r.cause }) ∧
    r.faultIndication true = { r with faultReported := true, cause := .boardFault } ∧
    r.faultIndication false = { r with faultReported := false } ∧
    r.health = (if r.cause ≠ .noFailure then .failed else if r.missRun = 0 then .ready else .suspect)

/-! ### The Hammer Cycle -/

/-- R40, R41, R44: a contact report taken in DRIVE closes the flight; one taken in MASK of a presumed cycle
is a late contact. -/
def Obligations.ContactReportsByHammerState : Prop :=
  ∀ (s : State) (i age : Nat),
    let h := s.hammer i
    let send := h.send.getD 0
    let instant := max send (s.now - age)
    (h.state = .drive →
      let h' := { h with contact := some instant }
      s.contactReport i age = State.flightClosed ((s.setHammer i h').writeBell i
        (((s.bell i).capture (h.band.getD .soft) (instant - send)).contactAt instant)) i instant h') ∧
    (h.state = .mask → h.presumed = true →
      s.contactReport i age = (s.setHammer i { h with contact := some instant, presumed := false }).writeBell
        i ((s.bell i).lateContact (h.missBefore.getD 0) instant))

/-- R45, R46: a report in MASK of a cycle that is not presumed adds 1 to BOUNCES, and one in ORDERED,
SETTLE or IDLE adds 1 to STRAYS; nothing else changes. -/
def Obligations.BouncesAndStraysAreOnlyCounted : Prop :=
  ∀ (s : State) (i age : Nat), AvailabilityDerived s →
    let h := s.hammer i
    let r := s.bell i
    (h.state = .mask → h.presumed = false →
      s.contactReport i age = { s with bells := s.bells.set i { r with bounces := r.bounces + 1 } }) ∧
    (h.state = .ordered ∨ h.state = .settle ∨ h.state = .idle →
      s.contactReport i age = { s with bells := s.bells.set i { r with strays := r.strays + 1 } })

/-- R42, R47, R48: the ends of a hammer's timers. That an entry to IDLE keeps the band and clears every other
field is deduced (log 13); where the hammer-free event stands among the events handed on is the model's choice
(log 6). -/
def Obligations.HammerTimersEnd : Prop :=
  (∀ (s : State) (i e : Nat), s.rst.held = false → (s.hammer i).timerEnd = some e → e ≤ s.now →
    let h := s.hammer i
    let r := s.bell i
    (h.state = .drive →
      let h' := { h with presumed := true, missBefore := some r.missRun }
      exec (.expiry i) s = .next (State.flightClosed ((s.setHammer i h').writeBell i
        (r.presume r.boardOnline)) i (h.expiry.getD s.now) h').finish) ∧
    (h.state = .mask →
      exec (.maskEnd i) s = .next
        (if r.recovery = 0 then s.act fun _ b => b.enterIdle i
         else (s.setHammer i
          { h with state := .settle, timerEnd := some (e + r.recovery) }).finish)) ∧
    (h.state = .settle → exec (.settleEnd i) s = .next (s.act fun _ b => b.enterIdle i))) ∧
  ∀ (b : Body) (i : Nat), b.enterIdle i =
    { b with
      hammers := b.hammers.set i
        { state := .idle, band := (b.hammer i).band, send := none, expiry := none, contact := none,
          presumed := false, missBefore := none, timerEnd := none }
      mail := .hammerFree i :: b.mail }

/-! ### The Strike Scheduler -/

/-- R70, R72 to R76, R167: a strike leaves the queue by one way, its counter rises, its player is handed a
removal event with the player, the way, its queued count and the tune total, and the Console Interface is told of
the room; of strikes that meet a condition and leave together each is counted and hands on its own, with the
counts as it leaves; a DUE strike that waits beyond the late limit is discarded as LATE. That several leave in
queue order is the model's choice (log 46), and so is where these events stand among the events handed on
(log 6). -/
def Obligations.StrikesLeaveTheQueueOneWay : Prop :=
  let counted := fun (c d : Scheduler) (way : Way) (n : Counter) =>
    d.fired = c.fired + (if way = .fired then n else 0) ∧
    d.withdrawn = c.withdrawn + (if way = .withdrawn then n else 0) ∧
    d.discardedLate = c.discardedLate + (if way = .late then n else 0) ∧
    d.discardedBlocked = c.discardedBlocked + (if way = .blocked then n else 0) ∧
    d.discardedUnavailable = c.discardedUnavailable + (if way = .unavailable then n else 0) ∧
    d.admitted = c.admitted
  (∀ (b : Body) (position : Nat) (way : Way) (k : Strike), b.sched.queue[position]? = some k →
    let t := b.removeAt position way
    t.sched.queue = b.sched.queue.eraseIdx position ∧ counted b.sched t.sched way 1 ∧
    t = { b with
      sched := t.sched
      mail := b.mail ++ (match k.player with
        | some p => [Msg.removal p way (t.queuedCount p) t.tuneTotal]
        | none => []) ++ [Msg.considerHead] }) ∧
  (∀ (b : Body) (p : Nat), b.withdrawPlayer p = b.removeAll .withdrawn fun k => k.player == some p) ∧
  (∀ (b : Body) (way : Way) (cond : Strike → Bool),
    let t := b.removeAll way cond
    let left := b.sched.queue.filter cond
    t.sched.queue = b.sched.queue.filter (fun k => !cond k) ∧
    counted b.sched t.sched way (BitVec.ofNat 32 (b.sched.queue.countP cond)) ∧
    t = { b with
      sched := t.sched
      mail := b.mail ++ (left.mapIdx fun j k =>
        let later := left.drop (j + 1)
        (match k.player with
          | some p => [Msg.removal p way (t.queuedCount p + later.countP fun x => decide (x.player = some p))
              (t.tuneTotal + later.countP fun x => x.player.any fun q => decide (1 ≤ q ∧ q ≤ 7))]
          | none => []) ++ [Msg.considerHead]).flatten }) ∧
  ∀ (s : State) (position : Nat) (k : Strike), s.rst.held = false →
    s.body.sched.queue[position]? = some k → k.state = .due →
    s.body.sched.lateLimit < s.now - k.fire + k.admittedLate →
    exec (.lateDiscard position) s = .next (s.act fun _ b => b.removeAt position .late)

/-- R67, R68, R69, R178: a strike that reaches its fire instant is discarded as BLOCKED, handed off, or waits,
and so is one that is DUE as it is inserted; a hand-off orders the hammer before the Controller takes the order.
The order takes its place in the send list by fire instant and then bell number; while Belfry Access is asserted
at the Controller it is cancelled in the same event, and otherwise a frame is chosen. -/
def Obligations.DueStrikeIsBlockedFiredOrWaits : Prop :=
  (∀ (s : State) (position : Nat) (k : Strike), s.rst.held = false →
    s.body.sched.queue[position]? = some k → k.state = .queued → k.fire ≤ s.now →
    let queue := s.body.sched.queue.set position { k with state := .due }
    let b := s.body.setSched { s.body.sched with queue := queue }
    let free := (s.hammer k.bell).state = .idle ∧ ∀ o ∈ s.body.bus.sendList, o.bell ≠ k.bell
    let first := ∀ j x, j < position → queue[j]? = some x → x.bell = k.bell → x.state = .queued
    (s.body.sched.access = true →
      exec (.strikeDue position) s = .next (s.act fun _ _ => b.removeAt position .blocked)) ∧
    (s.body.sched.access = false → free → first →
      exec (.strikeDue position) s = .next (s.act fun e _ => b.handOff e position)) ∧
    (s.body.sched.access = false → ¬ (free ∧ first) →
      exec (.strikeDue position) s = .next (s.act fun _ _ => b))) ∧
  (∀ (e : Env) (b : Body) (position : Nat) (k : Strike), b.sched.queue[position]? = some k →
    k.state = .due →
    let free := (b.hammer k.bell).state = .idle ∧ ∀ o ∈ b.bus.sendList, o.bell ≠ k.bell
    let first := ∀ j x, j < position → b.sched.queue[j]? = some x → x.bell = k.bell → x.state = .queued
    (b.sched.access = true → b.dispatchAt e position = b.removeAt position .blocked) ∧
    (b.sched.access = false → free → first → b.dispatchAt e position = b.handOff e position) ∧
    (b.sched.access = false → ¬ (free ∧ first) → b.dispatchAt e position = b)) ∧
  (∀ (e : Env) (b : Body) (position : Nat) (k : Strike), b.sched.queue[position]? = some k →
    let r := e.bell k.bell
    let place := r.placement.getD (0, 0)
    b.handOff e position =
      Body.takeOrder e.now
        { bell := k.bell, board := place.1, hammer := place.2, pulse := r.pulse k.force,
          band := k.band, fire := k.fire, onLine := false }
        ((b.removeAt position .fired).setHammer k.bell
          { state := .ordered, band := some k.band, send := none, expiry := none, contact := none,
            presumed := false, missBefore := none, timerEnd := none })) ∧
  ∀ (now : Nat) (b : Body) (o : Order),
    let before := fun x : Order => x.fire < o.fire ∨ (x.fire = o.fire ∧ x.bell ≤ o.bell)
    ∃ earlier later, b.bus.sendList = earlier ++ later ∧ (∀ x ∈ earlier, before x) ∧
      (∀ x ∈ later.head?, ¬ before x) ∧
      let u := b.setBus { b.bus with sendList := earlier ++ o :: later }
      (b.bus.access = true → b.takeOrder now o = u.cancelOrder o.bell .access) ∧
      (b.bus.access = false → b.takeOrder now o = u.chooseFrame now)

/-- R49, R56 to R58, R60 to R66: the six steps of admission, and the spacing instant and the counts of the queue
that they ask for. -/
def Obligations.AdmissionTakesSixSteps : Prop :=
  (∀ (e : Env) (b : Body) (r : Request),
    let bell := e.bell r.bell
    let band := if r.force ≤ 8 then Band.soft else .loud
    let mayAsk := bell.available = true ∧ b.holder r.bell = r.player
    let fire0 : Int := (r.sounding : Int) - ((bell.estimate band + 1 : Nat) : Int)
    let shift : Nat := match b.spacing e r.bell with
      | none => 0
      | some sp => ((sp : Int) - fire0).toNat
    let spaced := shift = 0 ∨ (r.policy = .defer ∧ shift ≤ r.slack)
    let late : Nat := ((e.now : Int) - (fire0 + shift)).toNat
    let room := b.occupancy < 256 ∧ (r.player = none ∨ r.player = some 0 ∨
      (b.tuneTotal < 224 ∧ ∃ p ∈ r.player, b.queuedCount p < b.quota p))
    let fire := (fire0 + shift + late).toNat
    (¬ mayAsk → b.decideAdmission e r = (b, .refused .unavailable)) ∧
    (mayAsk → ¬ spaced → b.decideAdmission e r = (b, .refused .recovery)) ∧
    (mayAsk → spaced → b.sched.lateLimit < late → b.decideAdmission e r = (b, .refused .late)) ∧
    (mayAsk → spaced → late ≤ b.sched.lateLimit → ¬ room →
      b.decideAdmission e r = (b.raise .queueFull, .refused .full)) ∧
    (mayAsk → spaced → late ≤ b.sched.lateLimit → room →
      b.decideAdmission e r = (b.insertStrike e
        { bell := r.bell, force := r.force, band := band, sounding := r.sounding + shift + late,
          fire := fire, origin := r.origin, player := r.player, tunePosition := r.tunePosition,
          deferral := shift, admittedLate := late,
          clear := fire + bell.estimate band + bell.estimate band * bell.mask / 128 + bell.recovery,
          state := if fire ≤ e.now then .due else .queued },
        .admitted fire (r.sounding + shift + late) shift late))) ∧
  (∀ (e : Env) (b : Body) (bell : Nat),
    let h := b.hammer bell
    let r := e.bell bell
    let est := r.estimate (h.band.getD .soft)
    let mask := est * r.mask / 128
    ((∀ k ∈ b.sched.queue, k.bell ≠ bell) → b.projectedFree bell = none) ∧
    (∀ earlier k later, b.sched.queue = earlier ++ k :: later → k.bell = bell →
      (∀ x ∈ later, x.bell ≠ bell) → b.projectedFree bell = some k.clear) ∧
    (h.state = .idle → b.projectedEnd e bell = none) ∧
    (h.state = .ordered → b.projectedEnd e bell = some (e.now + 1 + est + mask + r.recovery)) ∧
    (h.state = .drive → ∀ x, h.send = some x →
      b.projectedEnd e bell = some (max (x + est) e.now + mask + r.recovery)) ∧
    (h.state = .mask → ∀ x, h.timerEnd = some x →
      b.projectedEnd e bell = some (x + r.recovery)) ∧
    (h.state = .settle → b.projectedEnd e bell = h.timerEnd) ∧
    (b.projectedFree bell = none → b.spacing e bell = b.projectedEnd e bell) ∧
    (b.projectedEnd e bell = none → b.spacing e bell = b.projectedFree bell) ∧
    ∀ x y, b.projectedFree bell = some x → b.projectedEnd e bell = some y →
      b.spacing e bell = some (max x y)) ∧
  (∀ b : Body, b.occupancy = b.sched.queue.length ∧
    b.tuneTotal = ((List.range 7).map fun i => b.queuedCount (i + 1)).sum ∧
    ∀ p, b.queuedCount p = b.sched.queue.countP (fun k => decide (k.player = some p)) ∧
      b.quota p = b.sched.quotas.getD (p - 1) 0) ∧
  (∀ (k : Strike) (l : List Strike), insertStrike k l =
    l.takeWhile (fun x => x.fire ≤ k.fire) ++ k :: l.dropWhile (fun x => x.fire ≤ k.fire)) ∧
  ∀ (e : Env) (b : Body) (k : Strike),
    let c := { b.sched with
      queue := b.sched.queue.takeWhile (fun x => x.fire ≤ k.fire) ++
        k :: b.sched.queue.dropWhile (fun x => x.fire ≤ k.fire)
      admitted := b.sched.admitted + 1 }
    (k.state = .queued → b.insertStrike e k = { b with sched := c }) ∧
    (k.state = .due → ∃ i, c.queue[i]? = some k ∧
      b.insertStrike e k = Body.dispatchAt e { b with sched := c } i)

/-- R77: TEST-STRIKE's refusals, and the strike that it queues to fire eight eighths ahead. -/
def Obligations.TestStrikeQueuesOneStrike : Prop :=
  ∀ (s : State) (p : List Byte) (n f : Nat), Heard s p → parseTestStrike p = some (n, f) →
    let r := s.bell n
    let band := if f ≤ 8 then Band.soft else .loud
    let est := r.estimate band
    let refused := fun (u : State) x => exec (.testStrike p) s = .next (u.respond { status := x, payload := [] })
    let asks := r.available = true ∧ s.body.sched.access = false ∧ s.body.holder n = none
    (r.available = false ∨ s.body.sched.access = true → refused (s.heard p) .unavailable) ∧
    (r.available = true → s.body.sched.access = false → s.body.holder n ≠ none →
      refused (s.heard p) .inUse) ∧
    (asks → (∃ sp ∈ s.body.spacing s.env n, s.now + 8 < sp) → refused (s.heard p).finish .inUse) ∧
    (asks → (∀ sp ∈ s.body.spacing s.env n, sp ≤ s.now + 8) → 256 ≤ s.body.occupancy →
      refused ((s.heard p).noticed .queueFull).finish .noSpace) ∧
    (asks → (∀ sp ∈ s.body.spacing s.env n, sp ≤ s.now + 8) → s.body.occupancy < 256 →
      exec (.testStrike p) s = .next
        (((s.heard p).setBody ((s.heard p).body.setSched { s.body.sched with
          admitted := s.body.sched.admitted + 1
          queue := insertStrike
            { bell := n, force := f, band := band, sounding := s.now + est + 9, fire := s.now + 8,
              origin := .test, player := none, tunePosition := none, deferral := 0,
              admittedLate := 0, clear := s.now + 8 + est + est * r.mask / 128 + r.recovery,
              state := .queued } s.body.sched.queue })).finish.respond
          { status := .ok, payload := u48 (s.now + 8) ++ u48 (s.now + est + 9) }))

/-- R71, R79, R179, R180: SET-QUEUE, and a change of Belfry Access at the Strike Scheduler and at the
Controller; a cancelled order leaves the list, is counted by its cause, is cut off on the line, and frees a
hammer in ORDERED; so do orders cancelled together. A settings event wakes the stalled players (R109). The
model's choices: that the value a row carries is the input's present one (log 22), and that the value a block
already holds is no change there (log 34); the order in which woken players decide, which is free (log 5); that
orders cancelled together are cancelled in list order (log 51); the place of the hammer-free events among the events
handed on (log 6). That an entry to IDLE keeps the band is deduced (log 13). -/
def Obligations.QueueSettingsAndBelfryAccess : Prop :=
  (∀ (s : State) (p : List Byte) (quotas : List Nat) (horizon late : Nat), Heard s p →
    parseSetQueue p = some (quotas, horizon, late) →
    ((∃ i < 7, quotas.getD i 0 < s.body.queuedCount (i + 1)) →
      exec (.setQueue p) s = .next (s.answer p { status := .inUse, payload := [] })) ∧
    ((∀ i < 7, s.body.queuedCount (i + 1) ≤ quotas.getD i 0) →
      exec (.setQueue p) s = .next (((s.heard p).act fun e b =>
        ((b.setSched { b.sched with
          quotas := quotas, horizon := 8 * horizon, lateLimit := 8 * late }).removeAll .late fun k =>
            k.state == .due && decide (8 * late < e.now - k.fire + k.admittedLate)).settingsEvent).respond
              .plain))) ∧
  (∀ (s : State) (a : Bool), s.rst.held = false →
    let u : State := { s with belfry := a }
    (s.body.sched.access = a → exec (.accessStateEvent a) s = .next u) ∧
    (s.body.sched.access ≠ a → exec (.accessStateEvent a) s = .next (u.act fun _ b =>
      let b := b.setSched { b.sched with access := a }
      if a then b.removeAll .blocked fun k => k.state == .due else b)) ∧
    (s.body.bus.access = a → exec (.belfryAccessChange a) s = .next u) ∧
    (s.body.bus.access ≠ a → exec (.belfryAccessChange a) s = .next (u.act fun _ b =>
      let b := (b.setBus { b.bus with access := a }).raise .access
      if a then b.cancelOrders .access b.bus.sendList else b))) ∧
  (∀ b : Body, ∃ (order : List Nat) (d : Nat), order.Nodup ∧
    (∀ q, q ∈ order ↔ 1 ≤ q ∧ q ≤ 7 ∧ (b.player q).state = .playing ∧
      (b.player q).generation = .stalled) ∧
    b.settingsEvent = { b with mail := order.map Msg.decide ++ b.mail, draws := d }) ∧
  (∀ (b : Body) (cause : CancelCause), (b.cancelOrders cause b.bus.sendList).bus.sendList = []) ∧
  (∀ (b : Body) (cause : CancelCause) (l : List Order), (l.map (·.bell)).Nodup →
    (∀ o ∈ l, ∃ x ∈ b.bus.sendList, x.bell = o.bell) →
    let named := fun i => l.any fun o => o.bell == i
    let n := BitVec.ofNat 32 l.length
    b.cancelOrders cause l = { b with
      bus := { b.bus with
        sendList := b.bus.sendList.filter fun x => !named x.bell
        line := match b.bus.line with
          | .actuate x ends cut => .actuate x ends (cut || named x)
          | line => line
        cancelledAccess := b.bus.cancelledAccess + (if cause = .access then n else 0)
        cancelledOffline := b.bus.cancelledOffline + (if cause = .offline then n else 0)
        cancelledUnavailable := b.bus.cancelledUnavailable + (if cause = .unavailable then n else 0) }
      hammers := b.hammers.mapIdx fun i h =>
        if named i = true ∧ h.state = .ordered then
          { state := .idle, band := h.band, send := none, expiry := none, contact := none,
            presumed := false, missBefore := none, timerEnd := none }
        else h
      mail := ((l.filter fun o => (b.hammer o.bell).state == .ordered).map fun o =>
        Msg.hammerFree o.bell).reverse ++ b.mail }) ∧
  ∀ (b : Body) (bell : Nat) (cause : CancelCause),
    ((∀ o ∈ b.bus.sendList, o.bell ≠ bell) → b.cancelOrder bell cause = b) ∧
    ∀ o ∈ b.bus.sendList, o.bell = bell →
    let u := { b.bus with
      sendList := b.bus.sendList.filter (fun x => x.bell ≠ bell)
      line := match b.bus.line with
        | .actuate x ends cut => .actuate x ends (cut || x == bell)
        | line => line
      cancelledAccess := b.bus.cancelledAccess + (if cause = .access then 1 else 0)
      cancelledOffline := b.bus.cancelledOffline + (if cause = .offline then 1 else 0)
      cancelledUnavailable := b.bus.cancelledUnavailable + (if cause = .unavailable then 1 else 0) }
    b.cancelOrder bell cause =
      if (b.hammer bell).state = .ordered then (b.setBus u).enterIdle bell else b.setBus u

/-! ### The Hammer Bus Controller -/

/-- R177, R179, R181, R182, R186, R207: the choice of the next frame, the characters sent for the frame on the
line, and the events that lead to a choice; a noise byte and SET-BUS. That the noise row counts in every state of
the line is the model's choice: it stands for a byte outside a POLL window (log 20). -/
def Obligations.LineChoosesTheNextFrame : Prop :=
  (∀ (now : Nat) (b : Body),
    (b.bus.line ≠ .idle → b.chooseFrame now = b) ∧
    (b.bus.line = .idle → b.nextPoll = none → b.bus.sendList = [] → b.chooseFrame now = b) ∧
    (∀ board, b.bus.line = .idle → b.nextPoll = some board →
      16 ≤ b.bus.consecutive ∨ b.bus.sendList = [] →
      b.chooseFrame now = b.setBus { b.bus with
        line := .poll board (now + 2), waitingPoll := b.bus.waitingPoll.set (board - 1) false,
        pointer := board, pollsSent := b.bus.pollsSent + 1, consecutive := 0 }) ∧
    (∀ o rest, b.bus.line = .idle → b.bus.sendList = o :: rest →
      b.nextPoll = none ∨ b.bus.consecutive < 16 →
      b.chooseFrame now = b.setBus { b.bus with
        line := .actuate o.bell (now + 1) false, sendList := { o with onLine := true } :: rest }) ∧
    let waits := fun k => b.bus.waitingPoll.getD ((b.bus.pointer + k) % b.port.boards) false = true
    (b.nextPoll = none ↔ ∀ k < b.port.boards, ¬ waits k) ∧
    (∀ k, k < b.port.boards → waits k → (∀ j < k, ¬ waits j) →
      b.nextPoll = some ((b.bus.pointer + k) % b.port.boards + 1))) ∧
  (∀ b : Body,
    let sent := fun bytes : List Byte => (bytes ++ u16 (crc16 bytes).toNat).mapIdx fun i x =>
      ({ byte := x, mark := decide (i = 0), framed := true } : BusChar)
    (b.bus.line = .idle → b.frameOnLine = []) ∧
    (∀ board ends, b.bus.line = .poll board ends → b.frameOnLine = sent [BitVec.ofNat 8 (32 + board)]) ∧
    (∀ bell ends, b.bus.line = .actuate bell ends true → b.frameOnLine = []) ∧
    ∀ bell ends earlier o later, b.bus.line = .actuate bell ends false →
      b.bus.sendList = earlier ++ o :: later → o.bell = bell → (∀ x ∈ earlier, x.bell ≠ bell) →
      b.frameOnLine =
        sent [BitVec.ofNat 8 (16 + o.board), BitVec.ofNat 8 o.hammer, BitVec.ofNat 8 o.pulse]) ∧
  ∀ s : State, s.rst.held = false →
    (s.body.bus.nextRound ≤ s.now →
      exec .pollRound s = .next (s.setBody (Body.chooseFrame s.now (s.body.setBus { s.body.bus with
        waitingPoll := s.body.bus.waitingPoll.mapIdx fun i w => w || decide (i < s.body.port.boards)
        pollsOvertaken := s.body.bus.pollsOvertaken +
          BitVec.ofNat 32 ((s.body.bus.waitingPoll.take s.body.port.boards).count true)
        nextRound := s.body.bus.nextRound + 64 })))) ∧
    (∀ bell ends, s.body.bus.line = .actuate bell ends true → ends ≤ s.now →
      exec .abortedFrameEnd s = .next (s.setBody
        (Body.chooseFrame s.now (s.body.setBus { s.body.bus with line := .idle })))) ∧
    exec .busNoiseByte s = .next { s with body := { s.body with bus :=
      { s.body.bus with noise := s.body.bus.noise + 1 } } } ∧
    (∀ x, 16 ≤ x → x ≤ 400 → s.body.port.loading = false →
      exec (.setBus (u16 x)) s = .next (State.respond
        ((s.heard (u16 x)).setBody { (s.heard (u16 x)).body with
          bus := { s.body.bus with allowance := x } }) .plain))

/-- R38, R178: send completion: the order leaves the list, a hammer in ORDERED begins its flight and its
actuation is counted, and the next frame is chosen. -/
def Obligations.SendCompletionStartsTheFlight : Prop :=
  ∀ (s : State) (bell ends : Nat), s.rst.held = false →
    s.body.bus.line = .actuate bell ends false → ends ≤ s.now →
    let h := s.hammer bell
    let r := s.bell bell
    let expiry := s.now + r.estimate (h.band.getD .soft) * r.window / 128 + s.body.bus.allowance
    let sent := s.setBody (s.body.setBus { s.body.bus with
      sendList := s.body.bus.sendList.filter fun o => o.bell ≠ bell
      actuatesSent := s.body.bus.actuatesSent + 1
      consecutive := s.body.bus.consecutive + 1 })
    let u := if h.state = .ordered then
        (sent.setHammer bell { h with
          state := .drive, send := some s.now, expiry := some expiry, timerEnd := some expiry }).writeBell
          bell { r with actuations := r.actuations + 1 }
      else sent
    exec .sendCompletion s = .next (u.setBody
      (Body.chooseFrame s.now (u.body.setBus { u.body.bus with line := .idle }))).finish

/-- R183 to R185: the end of a poll window. A reply that is not valid is a missed poll, the eighth in a row
takes the board OFFLINE; a valid one is taken, the second in a row takes it ONLINE; faults come first, then
the reports in their order. Which replies are valid and what they carry (R183, R207, R208); which bell a
board's output drives (R20); what a fault byte and a board event do to the bells (R28, R29, R184), each bell's
record written in turn with all that follows from a change of its availability; what a board event takes from the
queue and the send list (R74, R179); what a board that goes OFFLINE takes from the send list (R185). The model's
choices: a board event leaves the flag of a bell that is not present (log 45); the order of the outputs of one
fault byte, of the bells of one board event and of the orders of one board (log 51). That an entry to IDLE keeps
the band is deduced (log 13). -/
def Obligations.PollWindowIsJudged : Prop :=
  (∀ (s : State) (n ends : Nat) (received : List BusChar), s.rst.held = false →
    s.body.bus.line = .poll n ends → ends ≤ s.now →
    let x := s.board n
    let ends := fun (u : State) => exec (.pollWindowEnd received) s = .next (u.finish.setBody
      (Body.chooseFrame s.now (u.finish.body.setBus { u.finish.body.bus with line := .idle })))
    (readReply n received = none →
      let y := { x with
        noReply := x.noReply + (if received = [] then 1 else 0)
        badReply := x.badReply + (if received = [] then 0 else 1)
        missedRun := min 255 (x.missedRun + 1), replyRun := 0 }
      ends (if x.online = true ∧ y.missedRun = 8 then (s.setBoard n y).boardOffline n
        else s.setBoard n y)) ∧
    (∀ r, readReply n received = some r →
      let y := { x with
        validReplies := x.validReplies + 1, replyRun := min 255 (x.replyRun + 1), missedRun := 0 }
      let u := if x.online = false ∧ y.replyRun = 2 then (s.setBoard n y).boardOnline n
        else s.setBoard n y
      let v := r.reports.foldl (fun t c => t.takeReport n c.1 c.2) (u.takeFaults n r.faults)
      ends (if r.overflow then v.setBoard n { v.board n with overflow := (v.board n).overflow + 1 }
        else v))) ∧
  (∀ (n : Nat) (chars : List BusChar) (r : Reply),
    let bytes := chars.map (·.byte)
    let count := byteAt bytes 2 % 8
    readReply n chars = some r ↔
      (∀ c ∈ chars, c.framed = true ∧ c.mark = false) ∧ byteAt bytes 0 = n ∧
      byteAt bytes 2 / 8 % 16 = 0 ∧ count ≤ 4 ∧ bytes.length = 5 + 2 * count ∧
      (∀ k < count, byteAt bytes (3 + 2 * k) < 128) ∧
      (crc16 (bytes.take (3 + 2 * count))).toNat = wordAt bytes (3 + 2 * count) ∧
      r.faults.toNat = byteAt bytes 1 ∧ r.overflow = decide (128 ≤ byteAt bytes 2) ∧
      r.reports = (List.range count).map fun k =>
        (byteAt bytes (3 + 2 * k) / 16, 256 * (byteAt bytes (3 + 2 * k) % 16) + byteAt bytes (4 + 2 * k))) ∧
  (∀ (s : State) (n k : Nat),
    let drives := fun i => (s.bell i).present = true ∧ (s.bell i).placement = some (n, k)
    (s.bellAt n k = none ↔ ∀ i < 56, ¬ drives i) ∧
    ∀ i, s.bellAt n k = some i ↔ i < 56 ∧ drives i ∧ ∀ j < i, ¬ drives j) ∧
  (∀ (s : State) (n : Nat) (faults : Byte),
    s.takeFaults n faults = (List.range 8).foldl (fun t k =>
      match t.bellAt n k with
      | some i => t.writeBell i ((t.bell i).faultIndication (faults.getLsbD k))
      | none => t) (s.setBoard n { s.board n with faults := faults })) ∧
  (∀ (s : State) (n : Nat) (online : Bool), s.boardEvent n online = (List.range 56).foldl (fun t i =>
    if (t.bell i).present = true ∧ (t.bell i).placement.any (fun x => x.1 == n) = true then
      t.writeBell i { t.bell i with boardOnline := online }
    else t) s) ∧
  (∀ (s : State) (n : Nat) (online : Bool),
    let placed := fun (u : State) i => (u.bell i).present = true ∧ ∃ k, (u.bell i).placement = some (n, k)
    (∀ i < 56, i < s.bells.length →
      (placed s i → (s.boardEvent n online).bell i = { s.bell i with
        boardOnline := online
        available := (s.bell i).calibrated && !(s.bell i).lockout &&
          decide ((s.bell i).cause = .noFailure) && online }) ∧
      (¬ placed s i → (s.boardEvent n online).bell i = s.bell i)) ∧
    ∀ u : State, (∀ i < 56, ¬ placed u i) → u.boardEvent n online = u) ∧
  (∀ (s : State) (n : Nat) (online : Bool),
    let falls := fun i => decide (i < 56) && (s.bell i).present && (s.bell i).available &&
      (s.bell i).placement.any (fun x => x.1 == n) &&
      !((s.bell i).calibrated && !(s.bell i).lockout && decide ((s.bell i).cause = .noFailure) && online)
    let t := s.boardEvent n online
    t.body.sched = { s.body.sched with
      queue := s.body.sched.queue.filter (fun k => !falls k.bell)
      discardedUnavailable := s.body.sched.discardedUnavailable +
        BitVec.ofNat 32 (s.body.sched.queue.countP fun k => falls k.bell) } ∧
    t.body.bus.sendList = s.body.bus.sendList.filter (fun o => !falls o.bell) ∧
    t.body.bus.cancelledUnavailable = s.body.bus.cancelledUnavailable +
      BitVec.ofNat 32 ((List.range 56).countP fun i =>
        falls i && s.body.bus.sendList.any fun o => o.bell == i)) ∧
  (∀ (b : Body) (n : Nat), b.OneOrderEach →
    let t := b.cancelOrders .offline (b.bus.sendList.filter fun o => o.board == n)
    t.bus = { b.bus with
      sendList := b.bus.sendList.filter fun o => o.board ≠ n
      line := match b.bus.line with
        | .actuate x ends cut =>
          .actuate x ends (cut || b.bus.sendList.any fun o => o.board == n && o.bell == x)
        | line => line
      cancelledOffline := b.bus.cancelledOffline +
        BitVec.ofNat 32 (b.bus.sendList.countP fun o => o.board = n) } ∧
    t.hammers = b.hammers.mapIdx fun i h =>
      if (b.bus.sendList.any fun o => o.board == n && o.bell == i) = true ∧ h.state = .ordered then
        { state := .idle, band := h.band, send := none, expiry := none, contact := none,
          presumed := false, missBefore := none, timerEnd := none }
      else h) ∧
  ∀ (s : State) (n : Nat),
    let x := s.board n
    s.boardOnline n =
      ((s.setBoard n { x with online := true }).noticed .boardOnline).boardEvent n true ∧
    s.boardOffline n =
      (let u := s.setBoard n { x with online := false, wentOffline := x.wentOffline + 1 }
       ((u.setBody (u.body.cancelOrders .offline
        (u.body.bus.sendList.filter fun o => o.board == n))).noticed .boardOffline).boardEvent n false) ∧
    ∀ hammer age,
      let y := { x with reports := x.reports + 1 }
      (∀ i, s.bellAt n hammer = some i →
        s.takeReport n hammer age = (s.setBoard n y).contactReport i age) ∧
      (s.bellAt n hammer = none → s.takeReport n hammer age =
        s.setBoard n { y with unplacedReports := y.unplacedReports + 1 })

/-! ### Claims and players -/

/-- R82 to R96, R99, R108 to R114, R120: how a claim is made, granted, preempted, released and re-examined; a
claim deadline abandons the claim and frees the player; a wake takes a generation decision, which stalls by
the first failing condition; what a record, a stroke and a pass end do. The next sounding instant after the
last record or stroke is the model's choice (log 47), and so are the order of the strikes withdrawn together
(log 46), the order in which the bells of one grant are taken (log 51), and the places of the grant, holding
and decision events among the events handed on (log 6). That a discard handed on before an abort counts as lost
before it is deduced (log 25). -/
def Obligations.ClaimsAndGeneration : Prop :=
  (∀ (s : State) (p d : Nat), s.rst.held = false → (s.body.claim p).state = .pendingClaim →
    (s.body.claim p).deadline = some d → d ≤ s.now →
    exec (.claimDeadline p) s = .next (s.act fun e b =>
      Body.enterFree e.now ((b.setClaim p { b.claim p with
        state := .noClaim, deadline := none }).raise .claimTimeout) p .claimTimeout)) ∧
  (∀ (s : State) (p w : Nat), s.rst.held = false → (s.body.player p).state = .playing →
    (s.body.player p).generation = .stalled → (s.body.player p).wake = some w → w ≤ s.now →
    exec (.playerWake p) s = .next (s.act fun e b => b.takeDecision e p)) ∧
  -- R84 to R86: a claim is made
  (∀ (now : Nat) (b : Body) (p : Nat) (c : ClaimBody),
    let u := b.setClaim p { body := some c, deadline := none, claimInstant := some now,
                            grantInstant := none, state := .noClaim }
    let takes := fun i => b.holder i = none ∨ ∃ h ∈ b.holder i, c.preemptive = true ∧
      c.priority < u.claimPriority h
    let granted := fun (t : Body) (g : List Nat) =>
      Body.reexamine now 9 (t.grant now p g).1 (t.grant now p g).2
    (c.bells = [] → b.makeClaim now p c =
      (u.setClaim p { u.claim p with state := .granted, grantInstant := some now }).send (.grant p)) ∧
    (c.bells ≠ [] → c.kind = .whole → (∀ i ∈ c.bells, takes i) →
      b.makeClaim now p c = granted u c.bells) ∧
    (c.bells ≠ [] → c.kind = .whole → ¬ (∀ i ∈ c.bells, takes i) →
      (∀ w, c.waitLimit = some w → 0 < w → b.makeClaim now p c =
        u.setClaim p { u.claim p with state := .pendingClaim, deadline := some (now + 8000 * w) }) ∧
      (c.waitLimit = none ∨ c.waitLimit = some 0 → b.makeClaim now p c =
        Body.enterFree now ((u.setClaim p { u.claim p with
          state := .noClaim, deadline := none }).raise .claimTimeout) p .claimTimeout)) ∧
    (c.bells ≠ [] → c.kind = .partialClaim →
      let g := c.bells.filter fun i => decide (takes i)
      let v := (c.bells.filter fun i => decide (¬ takes i)).foldl (fun t i => t.joinWaiting p i) u
      b.makeClaim now p c = if g = [] then
        (v.setClaim p { v.claim p with state := .partGranted, grantInstant := some now }).send (.grant p)
      else granted v g)) ∧
  -- R87: a grant
  (∀ (now : Nat) (b : Body) (c : Nat) (g : List Nat),
    let b1 := g.foldl (fun t i => if b.holder i = none
      then t.removeAll .withdrawn fun k => k.player == none && k.bell == i else t) b
    let b2 := g.foldl (fun t i => match b1.holder i with
      | some h => t.takeFrom h i
      | none => t) b1
    let b3 := b2.setClaims { b2.claims with
      holders := g.foldl (fun l i => l.set i (some c)) b2.claims.holders
      waiting := g.foldl (fun l i => l.modify i fun w => w.filter (· != c)) b2.claims.waiting }
    let b4 := b3.setClaim c { b3.claim c with
      state := if (b3.claim c).body.map (·.kind) = some .whole ∨ (∀ i ∈ List.range 56, c ∉ b3.waitingOn i)
        then .granted else .partGranted
      deadline := none
      grantInstant := some ((b3.claim c).grantInstant.getD now) }
    let b5 := Body.send (b4.setClaims { b4.claims with
      rotation := b4.claims.rotation.filter (· != c) ++ [c] }) (.grant c)
    let b6 := if c = 0 then g.foldl (fun t i => t.send (.holding i)) b5 else b5
    ∃ losers : List Nat, losers.Pairwise (· < ·) ∧
      (∀ h, h ∈ losers ↔ h < 8 ∧ (b.claim h).body.map (·.kind) = some .whole ∧
        ∃ i ∈ g, b.holder i = some h) ∧
      b.grant now c g =
        losers.foldl (fun r h => ((r.1.abort h).1, r.2 ++ (r.1.abort h).2)) (b6, [])) ∧
  -- R88 to R92: a bell taken, a WHOLE holder aborted, a claim cleared and released
  (∀ (now : Nat) (b : Body) (h i : Nat),
    let u := b.removeAll .withdrawn fun k => k.player == some h && k.bell == i
    let v := (u.joinWaiting h i).setClaim h
      { (u.joinWaiting h i).claim h with state := .partGranted }
    ((u.claim h).body.map (·.kind) = some .whole → b.takeFrom h i = u.raise .preempted) ∧
    ((u.claim h).body.map (·.kind) ≠ some .whole →
      b.takeFrom h i = (if h = 0 then v.send (.holding i) else v).raise .preempted) ∧
    (let discarded := b.mail.any fun m => match m with
       | .removal q way _ _ => q == h && (way == .late || way == .blocked || way == .unavailable)
       | _ => false
     let d := b.modPlayer h fun x => { x with lost := x.lost || discarded }
     let w := d.removeAll .withdrawn fun k => k.player == some h
     b.abort h = (((w.clearClaim h).1.leavePerformance h .preempted).announceEnd h .preempted,
                  (w.clearClaim h).2)) ∧
    (let freed := (List.range 56).filter fun j => b.holder j == some h
     let w := b.setClaims { b.claims with
       holders := b.claims.holders.map fun x => if x = some h then none else x
       waiting := b.claims.waiting.map fun x => x.filter (· != h)
       records := b.claims.records.modify h fun r => { r with state := .noClaim, deadline := none } }
     b.clearClaim h = (if h = 0 then freed.foldl (fun t j => t.send (.holding j)) w else w, freed)) ∧
    ((b.claim h).state = .noClaim → b.release now h = b) ∧
    ((b.claim h).state ≠ .noClaim →
      b.release now h = Body.reexamine now 9 (b.clearClaim h).1 (b.clearClaim h).2) ∧
    (∀ j, (b.joinWaiting h i).waitingOn j =
      if j = i ∧ i < b.claims.waiting.length then addMember h (b.waitingOn i) else b.waitingOn j) ∧
    ∀ (l : List Nat) (q : Nat), q ∈ addMember h l ↔ q = h ∨ q ∈ l) ∧
  -- R93, R94: re-examination
  (∀ (now n : Nat) (b : Body) (f : List Nat),
    (∀ p, p ∈ b.candidates f ↔ p < 8 ∧
      (((b.claim p).state = .pendingClaim ∧ ∃ c ∈ (b.claim p).body, ∃ i ∈ c.bells, i ∈ f) ∨
       ((b.claim p).state = .partGranted ∧ ∃ i ∈ f, p ∈ b.waitingOn i))) ∧
    (b.candidates f).Nodup ∧
    (b.candidates f).Pairwise (fun p q => b.claimPriority p < b.claimPriority q ∨
      (b.claimPriority p = b.claimPriority q ∧
        b.claims.rotation.findIdx (· == p) ≤ b.claims.rotation.findIdx (· == q))) ∧
    b.pass now f = (b.candidates f).foldl (fun r p =>
      let a := Body.considerCandidate now f r.1 p
      (a.1, r.2 ++ a.2)) (b, []) ∧
    (∀ p, b.claimPriority p = ((b.claim p).body.map (·.priority)).getD 7) ∧
    Body.reexamine now (n + 1) b [] = b ∧
    (f ≠ [] → Body.reexamine now (n + 1) b f =
      Body.reexamine now n (b.pass now f).1 (b.pass now f).2)) ∧
  (∀ (now : Nat) (b : Body) (f : List Nat) (p : Nat) (c : ClaimBody), (b.claim p).body = some c →
    let takes := fun i => b.holder i = none ∨ ∃ h ∈ b.holder i, c.preemptive = true ∧
      c.priority < b.claimPriority h
    let stays := Body.considerCandidate now f b p = (b, [])
    (c.kind = .whole →
      ((b.claim p).state = .pendingClaim → (∀ i ∈ c.bells, takes i) →
        Body.considerCandidate now f b p = b.grant now p c.bells) ∧
      ((b.claim p).state ≠ .pendingClaim ∨ ¬ (∀ i ∈ c.bells, takes i) → stays)) ∧
    (c.kind = .partialClaim →
      let g := f.filter fun i => decide (p ∈ b.waitingOn i ∧ b.holder i = none)
      (g = [] → stays) ∧ (g ≠ [] → Body.considerCandidate now f b p = b.grant now p g))) ∧
  -- R107, R110 to R114, R125, R209: generation
  (∀ x y z : Byte, noteOf [x, y, z] =
    { pitch := x.toNat % 128, force := y.toNat / 16, delay := 256 * (y.toNat % 16) + z.toNat }) ∧
  (∀ (e : Env) (b : Body) (p : Nat) (f : Performance),
    let x := b.slot (f.slot.getD 0)
    let note := noteOf (e.memory.recordBytes x.blocks f.recordIndex)
    let sounding := f.anchor.getD 0 + (f.tickPosition + note.delay) * f.tickPeriod.getD 0
    let pitch : Int := note.pitch + f.transposition
    let b1 := b.modPlayer p fun y => { y with recordsRead := y.recordsRead + 1 }
    let bell := if 0 ≤ pitch ∧ pitch ≤ 95 then b1.lookup e p (f.map.getD .a) pitch.toNat else none
    let muted := b1.modPlayer p fun y => { y with muted := y.muted + 1, lost := true }
    let struck := fun i => (b1.askAdmission e p
      { bell := i, force := (max 1 (min 15 ((note.force : Int) + f.forceOffset))).toNat,
        sounding := sounding, origin := .tune, player := some p,
        tunePosition := some (f.passNumber.toNat, f.recordIndex), policy := f.policy,
        slack := 8 * f.slack }).1
    let f' := { f with
      tickPosition := f.tickPosition + note.delay, recordIndex := f.recordIndex + 1 }
    let goes := fun u : Body => b.readRecord e p f =
      if x.length.getD 0 ≤ f.recordIndex + 1 then u.passEnd e p f'
      else (u.setPerf p { f' with nextSounding := some (u.nextTuneInstant e f') }).sendFirst (.decide p)
    b.nextTuneInstant e f = sounding ∧
    (note.force = 0 → goes b1) ∧ (note.force ≠ 0 → bell = none → goes muted) ∧
    (∀ i, note.force ≠ 0 → bell = some i → goes (struck i)) ∧
    (let span := x.ticks.getD 0 + x.passGap.getD 0
     let f' := { f with
       anchor := some (f.anchor.getD 0 + (if span = 0 then 1 else span) * f.tickPeriod.getD 0)
       passesRemaining := if f.passesRemaining = 255 then 255 else f.passesRemaining - 1
       passNumber := f.passNumber + 1, recordIndex := 0, tickPosition := 0 }
     ((b.player p).finish = false → 0 < f.passesRemaining → b.passEnd e p f =
       (b.setPerf p { f' with nextSounding := some (b.nextTuneInstant e f') }).sendFirst (.decide p)) ∧
     ((b.player p).finish = true ∨ f.passesRemaining = 0 →
       b.passEnd e p f = Body.drain e.now (b.setPerf p f) p))) ∧
  (∀ (e : Env) (b : Body) (p : Nat) (f : Performance) (t : Toll), f.toll = some t →
    let b1 := b.modPlayer p fun y => { y with recordsRead := y.recordsRead + 1 }
    let strikes := (e.bell t.bell).available = true ∧ b.holder t.bell = some p
    let struck := (b1.askAdmission e p
      { bell := t.bell, force := t.force, origin := .toll, player := some p, tunePosition := none,
        sounding := f.anchor.getD 0 + f.strokeIndex * (8 * t.interval), policy := f.policy,
        slack := 8 * f.slack }).1
    let goes := fun u : Body => b.strokeToll e p f t =
      if t.strokes ≤ f.strokeIndex + 1 ∨ (u.player p).finish = true then
        Body.drain e.now (u.setPerf p { f with strokeIndex := f.strokeIndex + 1 }) p
      else (u.setPerf p { f with
        strokeIndex := f.strokeIndex + 1
        nextSounding := some (f.anchor.getD 0 + (f.strokeIndex + 1) * (8 * t.interval)) }).sendFirst
          (.decide p)
    (strikes → goes struck) ∧
    (¬ strikes → goes (b1.modPlayer p fun y => { y with muted := y.muted + 1, lost := true }))) ∧
  (∀ (e : Env) (b : Body) (p : Nat) (r : Request),
    let a := b.decideAdmission e r
    b.askAdmission e p r = (a.1.modPlayer p fun x => match a.2 with
      | .admitted _ _ deferral _ => { x with
          admitted := x.admitted + 1
          deferred := if deferral = 0 then x.deferred else x.deferred + 1 }
      | .refused .recovery => { x with refusedRecovery := x.refusedRecovery + 1, lost := true }
      | .refused .late => { x with refusedLate := x.refusedLate + 1, lost := true }
      | .refused .unavailable =>
        { x with refusedUnavailable := x.refusedUnavailable + 1, lost := true }
      | .refused .full => { x with refusedFull := x.refusedFull + 1, lost := true }, a.2)) ∧
  (∀ (e : Env) (b : Body) (p : Nat) (m : MapId) (pitch : Nat),
    let x := e.entryOf m pitch
    let strikes := fun i => (e.bell i).available = true ∧ b.holder i = some p
    (∀ i, x.primary = some i → strikes i → b.lookup e p m pitch = some i) ∧
    ((∀ i, x.primary = some i → ¬ strikes i) →
      (∀ i, x.alternate = some i → strikes i → b.lookup e p m pitch = some i) ∧
      ((∀ i, x.alternate = some i → ¬ strikes i) → b.lookup e p m pitch = none))) ∧
  ∀ (e : Env) (b : Body) (p : Nat) (f : Performance), p ≠ 0 → (b.player p).perf = some f →
    (b.player p).state = .playing → (b.player p).generation ≠ .done →
    let next := f.nextSounding.getD 0
    let far := e.now + b.sched.horizon < next
    let full := b.quota p ≤ b.queuedCount p
    let capped := 224 ≤ b.tuneTotal
    let stalled := fun reason wake => b.takeDecision e p = b.setPlayer p { b.player p with
      generation := .stalled, stallReason := some reason, wake := wake }
    (far → stalled .horizon (some (next - b.sched.horizon))) ∧
    (¬ far → full → stalled .quota none) ∧
    (¬ far → ¬ full → capped → stalled .cap none) ∧
    (¬ far → ¬ full → ¬ capped →
      let u := b.setPlayer p { b.player p with generation := .running, stallReason := none, wake := none }
      b.takeDecision e p = match f.toll with
        | some t => u.strokeToll e p f t
        | none => u.readRecord e p f)

/-- R98, R103 to R107, R109, R115 to R119, R122, R148: a launch and the claim it makes, the grant event, the
drain, the entry into FREE and the removal event; PLAY-NOW's checks in their order and its launch;
STOP-PLAYER in its two variants. The model's: PLAY-NOW's layout and the anchor answered (log 11, log 26); that
a drain ends when nothing is queued and no removal event of the player is still to be taken (log 25); the order
in which woken players decide (log 5); the passes remaining of a toll or the console (log 52) and the next sounding
instant before the first grant (log 53); notice on end as the launch writes it (log 48); generation DONE of player 0
as it drains (log 55); the places of the events handed on (log 6). -/
def Obligations.LaunchesStopsAndEnds : Prop :=
  (∀ (s : State) (p : List Byte) (named : Option Nat) (kind : EntryKind) (f : PerfFields), Heard s p →
    parsePlayNow p = some (named, kind, f) →
    let refused := fun x => exec (.playNow p) s = .next (s.answer p { status := x, payload := [] })
    let noTune := kind = .tune ∧ (s.body.slot f.slot).state ≠ .ready
    let noHour := kind = .toll ∧ f.strokes = none ∧ s.time.tower = none
    (noTune → refused .noTune) ∧
    (noHour → refused .notActive) ∧
    (¬ noTune → ¬ noHour →
      (∀ q, named = some q → (s.body.player q).state ≠ .free → refused .noPlayer) ∧
      (named = none → (∀ q, 1 ≤ q → q ≤ 7 → (s.body.player q).state ≠ .free) → refused .noPlayer) ∧
      ∀ q, (s.body.player q).state = .free →
        named = some q ∨ (named = none ∧ 1 ≤ q ∧ q ≤ 7 ∧
          ∀ k, 1 ≤ k → k < q → (s.body.player k).state ≠ .free) →
        exec (.playNow p) s = .next (((s.heard p).act fun e b => (b.launch e
          { player := q, origin := .playNow,
            piece := b.piece kind f (match s.time.tower with
              | some t => (t.ms + s.body.cal.preRoll) % 86400000 / 3600000
              | none => 0),
            anchor := some (s.now + 8 * s.body.cal.preRoll), claimKind := f.claimKind,
            priority := f.priority, preemptive := f.preemptive, waitLimit := f.waitLimit,
            policy := f.policy, slack := f.slack, notice := true, lateStart := false }).1).respond
          { status := .ok, payload := u8 q ++ u48 (s.now + 8 * s.body.cal.preRoll) }))) ∧
  -- R103, R105: a launch
  (∀ (e : Env) (b : Body) (r : Launch),
    let tuneMissing := ∃ slot m tr fo tick n, r.piece = .tune slot m tr fo tick n ∧
      (b.slot slot).state ≠ .ready
    let wait := if r.claimKind = .whole then some r.waitLimit else none
    let blank : Performance :=
      { origin := r.origin, mode := .live, slot := none, map := none, transposition := 0,
        forceOffset := 0, tickPeriod := none, passesRemaining := 0, passNumber := 0,
        recordIndex := 0, tickPosition := 0, toll := none, strokeIndex := 0, anchor := r.anchor,
        nextSounding := none, claimKind := r.claimKind, priority := r.priority,
        preemptive := r.preemptive, waitLimit := wait, policy := r.policy, slack := r.slack }
    let perf : Performance := match r.piece with
      | .tune slot m tr fo tick n => { blank with
          mode := if n = 0 then .single else .repeated, slot := some slot, map := some m,
          transposition := tr, forceOffset := fo, tickPeriod := tick, passesRemaining := n }
      | .toll t => { blank with mode := .toll, toll := some t }
      | .console m => { blank with map := some m }
    let u := b.setPlayer r.player
      { state := .claiming, generation := .stalled, stallReason := none, wake := none,
        perf := some perf, noticeOnEnd := r.notice, finish := false, closeCause := none,
        lateStart := r.lateStart, lost := false, recordsRead := 0, admitted := 0, deferred := 0,
        muted := 0, refusedRecovery := 0, refusedLate := 0, refusedUnavailable := 0,
        refusedFull := 0, lastOutcome := none }
    let v := match r.piece with
      | .tune slot _ _ _ _ _ => u.setSlot slot { u.slot slot with users := (u.slot slot).users + 1 }
      | _ => u
    ((b.player r.player).state ≠ .free → b.launch e r = (b, .noPlayer)) ∧
    ((b.player r.player).state = .free → tuneMissing → b.launch e r = (b, .noTune)) ∧
    ((b.player r.player).state = .free → ¬ tuneMissing → b.launch e r =
      (Body.makeClaim e.now v r.player
        { bells := b.launchSet e r.piece, kind := r.claimKind, priority := r.priority,
          preemptive := r.preemptive, waitLimit := wait }, .accepted))) ∧
  -- R104: the claim set
  (∀ (e : Env) (b : Body) (m : MapId) (pitches : List Int) (pitch : Nat),
    let x := e.entryOf m pitch
    let up := fun y : Option Nat => ∃ i, y = some i ∧ (e.bell i).available = true
    (up x.primary → e.claimedBell m pitch = x.primary) ∧
    (¬ up x.primary → up x.alternate → e.claimedBell m pitch = x.alternate) ∧
    (¬ up x.primary → ¬ up x.alternate →
      e.claimedBell m pitch = if x.primary = none then x.alternate else x.primary) ∧
    (e.claimSet m pitches).Pairwise (· < ·) ∧
    (∀ i, i ∈ e.claimSet m pitches ↔
      i < 56 ∧ ∃ p ∈ pitches, 0 ≤ p ∧ p ≤ 95 ∧ e.claimedBell m p.toNat = some i) ∧
    (∀ slot tr fo tick n, b.launchSet e (.tune slot m tr fo tick n) =
      e.claimSet m (((b.slot slot).pitches.getD []).map fun p => (p : Int) + tr)) ∧
    (∀ t : Toll, b.launchSet e (.toll t) = [t.bell]) ∧
    b.launchSet e (.console m) = e.claimSet m ((List.range 96).map fun p => (p : Int))) ∧
  -- R107, R122, R148: what is launched
  (∀ (b : Body) (f : PerfFields) (hour : Nat),
    let strokes := f.strokes.getD (if hour % 12 = 0 then 12 else hour % 12)
    b.piece .toll f hour = .toll
      { bell := f.tollBell, strokes := strokes, interval := f.interval, force := f.tollForce } ∧
    b.piece .tune f hour = .tune f.slot f.map f.transposition f.forceOffset (b.tickPeriod f)
      f.repeatCount ∧
    (∀ m, f.tempoM = some m → b.tickPeriod f = some (8 * m + f.tempoN)) ∧
    (∀ m n, f.tempoM = none → (b.slot f.slot).state = .ready → (b.slot f.slot).tempo = some (m, n) →
      b.tickPeriod f = some (8 * m + n))) ∧
  -- R98, R106: the grant event
  (∀ (e : Env) (b : Body) (p : Nat) (f : Performance), (b.player p).perf = some f →
    let x := b.player p
    let restart := (b.claim p).grantInstant.getD e.now + 8 * b.cal.margin
    let late := f.anchor.getD 0 < restart
    let anchor := if late then restart else f.anchor.getD 0
    let next := fun instant => { f with anchor := some anchor, nextSounding := some instant }
    let plays := fun instant => b.setPlayer p { x with
      state := .playing, generation := .running, perf := some (next instant)
      lateStart := x.lateStart || decide late }
    (x.state ≠ .claiming → b.takeGrant e p = b) ∧
    (x.state = .claiming → p = 0 →
      b.takeGrant e p = b.setPlayer p { x with state := .playing, generation := .running }) ∧
    (x.state = .claiming → p ≠ 0 → ∀ t, f.toll = some t →
      let u := plays (anchor + f.strokeIndex * (8 * t.interval))
      b.takeGrant e p = if x.finish = true then Body.drain e.now u p else u.sendFirst (.decide p)) ∧
    (x.state = .claiming → p ≠ 0 → f.toll = none →
      b.takeGrant e p = (plays (b.nextTuneInstant e { f with anchor := some anchor })).sendFirst
        (.decide p))) ∧
  -- R115 to R117: the drain and the entry into FREE
  (∀ (now : Nat) (b : Body) (p : Nat) (fate : Fate),
    let u := b.modPlayer p fun x =>
      { x with state := .draining, generation := .done, stallReason := none, wake := none }
    let outcome := if p = 0 ∧ (u.player p).closeCause = some .linkLost then Fate.linkLost
      else if (u.player p).lost = true then .completedPartial else .completed
    let untaken := b.mail.any fun m => match m with
      | .removal q _ _ _ => q == p
      | _ => false
    b.drain now p = (if b.queuedCount p = 0 ∧ untaken = false then u.enterFree now p outcome else u) ∧
    (let u := b.modPlayer p fun x =>
       { x with state := .free, generation := .done, stallReason := none, wake := none,
                lastOutcome := some fate }
     b.leavePerformance p fate = match (b.player p).perf.bind (·.slot) with
       | none => u
       | some n => u.setSlot n { u.slot n with users := (u.slot n).users - 1 }) ∧
    b.enterFree now p fate = ((b.leavePerformance p fate).release now p).announceEnd p fate ∧
    (let x := b.player p
     let u := if x.noticeOnEnd = true then b.raise .perfEnd else b
     let v := match x.perf.map (·.origin) with
       | some (.entry n) => u.send (.calendarEnd n p fate)
       | _ => u
     b.announceEnd p fate = if p = 0 then v.send (.consoleEnd fate) else v)) ∧
  -- R109, R118: a removal event
  (∀ (e : Env) (b : Body) (p : Nat) (way : Way) (queued : Nat),
    let x := b.player p
    let u := if (x.state = .playing ∨ x.state = .draining) ∧ way ≠ .fired then
      b.setPlayer p { x with lost := true } else b
    let outcome := if p = 0 ∧ (u.player p).closeCause = some .linkLost then Fate.linkLost
      else if (u.player p).lost = true then .completedPartial else .completed
    let untaken := b.mail.any fun m => match m with
      | .removal q _ _ _ => q == p
      | _ => false
    let v := if x.state = .draining ∧ queued = 0 ∧ b.queuedCount p = 0 ∧ untaken = false then
      u.enterFree e.now p outcome else u
    let waits := fun q => (v.player q).state = .playing ∧ (v.player q).generation = .stalled
    ∃ (order : List Nat) (d : Nat),
      order.Nodup ∧
      (∀ q, q ∈ order ↔ q < 8 ∧ q ≠ 0 ∧ waits q ∧
        (q = p ∨ (p ≠ 0 ∧ (v.player q).stallReason = some .cap))) ∧
      b.takeRemoval e p way queued = { v with mail := order.map Msg.decide ++ v.mail, draws := d }) ∧
  ∀ (s : State) (p : List Byte) (q : Nat) (v : StopVariant), Heard s p →
    parseStopPlayer p = some (q, v) →
    exec (.stopPlayerStop p) s = exec (.stopPlayerFinish p) s ∧
    ((s.body.player q).state = .free →
      exec (.stopPlayerStop p) s = .next (s.answer p { status := .notActive, payload := [] })) ∧
    ((s.body.player q).state ≠ .free → v = .stop →
      exec (.stopPlayerStop p) s = .next (((s.heard p).act fun e b =>
        Body.enterFree e.now (b.withdrawPlayer q) q .stopped).respond .plain)) ∧
    ((s.body.player q).state ≠ .free → v = .finish →
      exec (.stopPlayerFinish p) s = .next (((s.heard p).act fun e b =>
        let u := b.setPlayer q { b.player q with finish := true }
        if (b.player q).state = .playing ∧ ((b.player q).perf.bind (·.toll)).isSome
        then Body.drain e.now u q else u).respond .plain))

/-! ### Tunes and maps -/

/-- R129 to R133: OPEN-TUNE, CLOSE-TUNE and ERASE-TUNE. And what they read: the free blocks in rising order and
where a record stands in them (R126), the slot that is WRITING (R129), a record's note (R125, R209), and the
pitch set and total ticks of the records (R132). -/
def Obligations.TuneSlotCommands : Prop :=
  (∀ b : Body, b.freeBlocks.Pairwise (· < ·) ∧
    ∀ k, k ∈ b.freeBlocks ↔ k < 256 ∧ ∀ x ∈ b.slots, k ∉ x.blocks) ∧
  (∀ (b : Body) (n : Nat),
    let other := fun k => k ≠ n ∧ (b.slot k).state = .writing
    (b.otherWriting n = none ↔ ∀ k < 64, ¬ other k) ∧
    ∀ k, b.otherWriting n = some k ↔ k < 64 ∧ other k ∧ ∀ j < k, ¬ other j) ∧
  (∀ (m : Memory) (blocks : List Nat) (i : Nat),
    let a := 3 * (64 * blocks.getD (i / 64) 0 + i % 64)
    m.recordBytes blocks i = [m.read a, m.read (a + 1), m.read (a + 2)]) ∧
  (∀ x y z : Byte, noteOf [x, y, z] =
    { pitch := x.toNat % 128, force := y.toNat / 16, delay := 256 * (y.toNat % 16) + z.toNat }) ∧
  (∀ records : List (List Byte), (pitchSet records).Pairwise (· < ·) ∧
    ∀ k, k ∈ pitchSet records ↔
      k < 96 ∧ ∃ r ∈ records, (noteOf r).pitch = k ∧ (noteOf r).force ≠ 0) ∧
  (∀ (r : List Byte) (records : List (List Byte)), totalTicks [] = 0 ∧
    totalTicks (r :: records) = (noteOf r).delay + totalTicks records) ∧
  (∀ (s : State) (p : List Byte) (o : OpenTune), Heard s p → parseOpenTune p = some o →
    let x := s.body.slot o.slot
    let need := (o.length + 63) / 64
    (0 < x.users → exec (.openTune p) s = .next (s.answer p { status := .inUse, payload := [] })) ∧
    (x.users = 0 → s.body.freeBlocks.length + x.blocks.length < need →
      exec (.openTune p) s = .next (s.answer p { status := .noSpace, payload := [] })) ∧
    (x.users = 0 → need ≤ s.body.freeBlocks.length + x.blocks.length →
      let b := match s.body.otherWriting o.slot with
        | some k => (s.heard p).body.setSlot k Slot.emptySlot
        | none => (s.heard p).body
      let b := b.setSlot o.slot Slot.emptySlot
      let t := b.setSlot o.slot
        { state := .writing, length := some o.length, tempo := some (o.m, o.n),
          passGap := some o.gap, blocks := b.freeBlocks.take need, written := some 0,
          pitches := none, ticks := none, crc := none, users := 0 }
      exec (.openTune p) s = .next (((s.heard p).setBody t).respond
        { status := .ok,
          payload := u8 (t.slot o.slot).blocks.length ++ u16 t.freeBlocks.length ++
            optional u8 (s.body.otherWriting o.slot) }))) ∧
  (∀ (s : State) (p : List Byte) (n : Nat) (crc : BitVec 16), Heard s p →
    parseCloseTune p = some (n, crc) →
    let x := s.body.slot n
    let records := (List.range (x.length.getD 0)).map (s.memory.recordBytes x.blocks)
    let found := crc16 records.flatten
    let abandoned := (s.heard p).setBody ((s.heard p).body.setSlot n Slot.emptySlot)
    (x.state ≠ .writing →
      exec (.closeTune p) s = .next (s.answer p { status := .notActive, payload := [] })) ∧
    (x.state = .writing → x.written.getD 0 < x.length.getD 0 →
      exec (.closeTune p) s = .next (abandoned.respond
        { status := .badContent, payload := u16 (x.written.getD 0) ++ u8 0 })) ∧
    (x.state = .writing → x.length.getD 0 ≤ x.written.getD 0 → found ≠ crc →
      exec (.closeTune p) s = .next (abandoned.respond
        { status := .badContent, payload := u16 (x.written.getD 0) ++ (u8 1 ++ u16 found.toNat) })) ∧
    (x.state = .writing → x.length.getD 0 ≤ x.written.getD 0 → found = crc →
      exec (.closeTune p) s = .next (((s.heard p).setBody ((s.heard p).body.setSlot n
        { x with
          state := .ready, written := none, pitches := some (pitchSet records),
          ticks := some (totalTicks records), crc := some found, users := 0 })).respond
        { status := .ok,
          payload := u8 (pitchSet records).length ++ u32 (totalTicks records) }))) ∧
  ∀ (s : State) (n : Nat), Heard s (u8 n) → n ≤ 63 →
    let t := (s.heard (u8 n)).body.setSlot n Slot.emptySlot
    (0 < (s.body.slot n).users →
      exec (.eraseTune (u8 n)) s = .next (s.answer (u8 n) { status := .inUse, payload := [] })) ∧
    ((s.body.slot n).users = 0 →
      exec (.eraseTune (u8 n)) s = .next (((s.heard (u8 n)).setBody t).respond
        { status := .ok, payload := u16 t.freeBlocks.length }))

/-- R131, R209: WRITE-TUNE stores its records at their positions, moves the written count, and leaves every
other byte of the note record memory as it was. -/
def Obligations.WriteTuneStoresOnlyItsRecords : Prop :=
  ∀ (s : State) (p : List Byte) (n offset : Nat) (records : List (List Byte)), Heard s p →
    parseWriteTune p = some (n, offset, records) →
    let x := s.body.slot n
    let count := records.length
    let refused := fun y => exec (.writeTune p) s = .next (s.answer p { status := y, payload := [] })
    (x.state ≠ .writing → refused .notActive) ∧
    (x.state = .writing → x.written ≠ some offset → refused .outOfSequence) ∧
    (x.state = .writing → x.written = some offset → x.length.getD 0 < offset + count →
      refused .badOperand) ∧
    (x.state = .writing → x.written = some offset → offset + count ≤ x.length.getD 0 →
      ∃ m : Memory,
        exec (.writeTune p) s = .next (State.respond
          { (s.heard p) with
            memory := m
            body := (s.heard p).body.setSlot n { x with written := some (offset + count) } }
          { status := .ok, payload := u16 (offset + count) }) ∧
        (∀ a, (∀ j < count, ∀ k < 3,
            a ≠ 3 * (64 * x.blocks.getD ((offset + j) / 64) 0 + (offset + j) % 64) + k) →
          m.read a = s.memory.read a) ∧
        (MemoryCanonical s → x.blocks.Nodup → offset + count ≤ 64 * x.blocks.length →
          ∀ j < count, some (m.recordBytes x.blocks (offset + j)) = records[j]?))

/-- R139, R140: WRITE-MAP writes the entries named, and the lamps of the console's map follow. -/
def Obligations.WriteMapWritesTheEntriesNamed : Prop :=
  ∀ (s : State) (p : List Byte) (m : MapId) (first : Nat) (es : List MapEntry), Heard s p →
    parseWriteMap p = some (m, first, es) →
    let old := match m with | .a => s.mapA | .b => s.mapB
    let new := old.take first ++ es ++ old.drop (first + es.length)
    let u := match m with
      | .a => { (s.heard p) with mapA := new }
      | .b => { (s.heard p) with mapB := new }
    old.length = 96 →
    (s.body.con.settings.map ≠ m → exec (.writeMap p) s = .next (u.respond .plain)) ∧
    (s.body.con.settings.map = m →
      exec (.writeMap p) s = .next ((u.act fun e b =>
        if b.con.session = .off then b
        else b.setCon { b.con with lamps := b.con.lamps.mapIdx fun k v =>
          if first ≤ k ∧ k < first + es.length then
            (if (b.lookup e 0 m k).isSome then .held else .lost)
          else v }).respond .plain))

/-! ### The Performance Calendar -/

/-- R146, R147, R155, R156, R158, R198: the entry commands and SET-CALENDAR; next occurrences computed, of one
entry or of all; one that is already reached is handed on to be taken. That none stands or is due while the
configuration is loading is deduced (log 28). The model's choices: the bytes of the trigger answered (log 10); the
order in which several reached at once are taken (log 5); where they stand among the events handed on (log 6). -/
def Obligations.EntryCommands : Prop :=
  (∀ (s : State) (p : List Byte) (n : Nat) (enabled : Bool) (f : EntryFields), Heard s p →
    parseWriteEntry p = some (n, enabled, f) →
    ((s.body.entry n).active ≠ none →
      exec (.writeEntry p) s = .next (s.answer p { status := .inUse, payload := [] })) ∧
    ((s.body.entry n).active = none →
      let u := (s.heard p).act fun e b => (b.setEntry n
        { fields := some f, enabled := enabled, next := none, lastFired := none, active := none,
          lastOutcome := none, launched := 0, missed := 0, overlap := 0, refused := 0 }).recompute e n
      exec (.writeEntry p) s = .next (u.respond
        { status := .ok,
          payload := optional (fun g => u16 g.day ++ u32 g.ms) (u.body.entry n).next }))) ∧
  (∀ (s : State) (n : Nat), Heard s (u8 n) → n ≤ 47 →
    let h := s.heard (u8 n)
    let x := s.body.entry n
    (x.fields = none →
      exec (.enableEntry (u8 n)) s = .next (s.answer (u8 n) { status := .notActive, payload := [] })) ∧
    (x.fields ≠ none →
      let u := h.act fun e b => (b.setEntry n { b.entry n with enabled := true }).recompute e n
      exec (.enableEntry (u8 n)) s = .next (u.respond
        { status := .ok,
          payload := optional (fun g => u16 g.day ++ u32 g.ms) (u.body.entry n).next })) ∧
    exec (.disableEntry (u8 n)) s = .next
      ((h.setBody (h.body.setEntry n { x with enabled := false, next := none })).respond .plain) ∧
    (x.active ≠ none →
      exec (.clearEntry (u8 n)) s = .next (s.answer (u8 n) { status := .inUse, payload := [] })) ∧
    (x.active = none → exec (.clearEntry (u8 n)) s = .next ((h.setBody (h.body.setEntry n
      { fields := none, enabled := false, next := none, lastFired := none, active := none,
        lastOutcome := none, launched := 0, missed := 0, overlap := 0, refused := 0 })).respond
      .plain))) ∧
  (∀ (s : State) (p : List Byte) (preRoll catchUp margin : Nat), Heard s p →
    parseSetCalendar p = some (preRoll, catchUp, margin) →
    exec (.setCalendar p) s = .next (((s.heard p).act fun e b => Body.recomputeAll e { b with
      cal := { b.cal with preRoll := preRoll, catchUp := catchUp, margin := margin } }).respond .plain)) ∧
  ∀ (e : Env) (b : Body) (n : Nat),
    let next := if b.port.loading then none else e.time.tower.bind (b.entry n).nextOccurrence
    let u := b.setEntry n { b.entry n with next := next }
    let v := { b with cal := { b.cal with entries := b.cal.entries.map fun (x : Entry) =>
      { x with next := if b.port.loading then none else e.time.tower.bind x.nextOccurrence } } }
    b.recompute e n = (if u.occurrenceDue e n then u.send (.occurrence n) else u) ∧
    (∃ (order : List Nat) (d : Nat), order.Nodup ∧
      (∀ m, m ∈ order ↔ m < 48 ∧ v.occurrenceDue e m = true) ∧
      b.recomputeAll e = { v with mail := order.map Msg.occurrence ++ b.mail, draws := d }) ∧
    (b.occurrenceDue e n = true ↔ b.port.loading = false ∧
      ∃ g w, (b.entry n).next = some g ∧ e.time.tower = some w ∧
        g.day * 86400000 + g.ms ≤ w.day * 86400000 + w.ms + b.cal.preRoll)

/-- R144, R146: a disabled or cleared entry has no next occurrence; that of another is an occurrence of its
recurrence, later than Tower Time and than the last fired occurrence, and, with time fields in their ranges,
the earliest of these, absent only where there is none. That no day lies above 65,535 is deduced (log 42). -/
def Obligations.NextOccurrenceIsTheEarliest : Prop :=
  (∀ (x : Entry) (t : TowerTime), x.enabled = false ∨ x.fields = none → x.nextOccurrence t = none) ∧
  ∀ (x : Entry) (f : EntryFields) (t : TowerTime), x.fields = some f → x.enabled = true →
    let full := fun (g : Trigger) => g.day * 86400000 + g.ms
    let candidate := fun (g : Trigger) => f.recurrence.Occurs t g ∧
      t.day * 86400000 + t.ms < full g ∧ ∀ l ∈ x.lastFired, full l < full g
    (∀ g, x.nextOccurrence t = some g →
      candidate g ∧ (f.recurrence.TimesInRange → ∀ k, candidate k → full g ≤ full k)) ∧
    (f.recurrence.TimesInRange → x.nextOccurrence t = none → ∀ k, ¬ candidate k)

/-- R3, R147 to R153: the launch instant of an entry takes its next occurrence: it becomes the last fired one,
a ONCE entry is disabled, it is launched or its refusal is counted, and no other entry changes; the end
event of its player records the outcome. What a change of Tower Time does: the occurrences that a forward
step skips are recorded MISSED, and within the catch-up limit the latest one of each entry is taken late. The
model's: a change while LOADING (log 28); the order of the entries, and a missed ONCE entry (log 29, log 5);
where they stand among the events handed on (log 6); the weekdays of skipped days (log 41); no day above 65,535
(log 42). -/
def Obligations.OccurrencesAndChangesOfTime : Prop :=
  (∀ (s : State) (n : Nat) (g : Trigger) (w : TowerTime), s.rst.held = false →
    s.body.port.loading = false → (s.body.entry n).next = some g → s.time.tower = some w →
    g.day * 86400000 + g.ms ≤ w.day * 86400000 + w.ms + s.body.cal.preRoll →
    exec (.launchInstant n) s = .next (s.act fun e b => b.takeOccurrence e n g false)) ∧
  (∀ (e : Env) (b : Body) (n : Nat) (g : Trigger) (catchUp : Bool) (f : EntryFields),
    n < b.cal.entries.length → (b.entry n).fields = some f →
    let t := b.takeOccurrence e n g catchUp
    let x : Entry := { b.entry n with
      lastFired := some g, next := (t.entry n).next
      enabled := (b.entry n).enabled && decide (f.recurrence.kind ≠ RecurrenceKind.once) }
    (∀ m ≠ n, t.entry m = b.entry m) ∧
    (x.active ≠ none →
      t.entry n = { x with lastOutcome := some .overlap, overlap := x.overlap + 1 }) ∧
    (x.active = none → f.player = none → b.anyPlayer = none →
      t.entry n = { x with lastOutcome := some .noPlayer, refused := x.refused + 1 }) ∧
    ∀ p, x.active = none → f.player = some p ∨ (f.player = none ∧ b.anyPlayer = some p) →
      ((b.player p).state ≠ .free →
        t.entry n = { x with lastOutcome := some .noPlayer, refused := x.refused + 1 }) ∧
      ((b.player p).state = .free → f.kind = .tune → (b.slot f.perf.slot).state ≠ .ready →
        t.entry n = { x with lastOutcome := some .noTune, refused := x.refused + 1 }) ∧
      ((b.player p).state = .free → f.kind = .toll ∨ (b.slot f.perf.slot).state = .ready →
        t.entry n = { x with active := some p, launched := x.launched + 1 })) ∧
  (∀ (b : Body) (n p : Nat) (fate : Fate),
    ((b.entry n).active = some p → b.calendarEnd n p fate =
      b.setEntry n { b.entry n with active := none, lastOutcome := some fate }) ∧
    ((b.entry n).active ≠ some p → b.calendarEnd n p fate = b)) ∧
  -- R148, R151: the taking, its launch and its anchor
  (∀ (e : Env) (b : Body) (n : Nat) (g : Trigger) (catchUp : Bool) (f : EntryFields),
    let u := (b.setEntry n { b.entry n with lastFired := some g }).launchOccurrence e n f g catchUp
    let v := if f.recurrence.kind = .once then u.setEntry n { u.entry n with enabled := false } else u
    ((b.entry n).fields = some f → b.takeOccurrence e n g catchUp = v.recompute e n) ∧
    ((b.entry n).fields = none → b.takeOccurrence e n g catchUp = b) ∧
    (∀ p, (b.entry n).active = none → f.player = some p ∨ (f.player = none ∧ b.anyPlayer = some p) →
      let a := b.anchorFor e g catchUp
      ∃ x : Entry, b.launchOccurrence e n f g catchUp = Body.setEntry (b.launch e
        { player := p, origin := .entry n, piece := b.piece f.kind f.perf (g.ms / 3600000),
          anchor := some a.1, claimKind := f.perf.claimKind, priority := f.perf.priority,
          preemptive := f.perf.preemptive, waitLimit := f.perf.waitLimit, policy := f.perf.policy,
          slack := f.perf.slack, notice := f.notice, lateStart := a.2 }).1 n x) ∧
    (∀ p, b.anyPlayer = some p ↔ 1 ≤ p ∧ p ≤ 7 ∧ (b.player p).state = .free ∧
      ∀ k, 1 ≤ k → k < p → (b.player k).state ≠ .free) ∧
    ∀ w, e.time.tower = some w →
      let instant : Int := (e.time.runTime : Int) - e.time.phase +
        8 * (((g.day * 86400000 + g.ms : Nat) : Int) - ((w.day * 86400000 + w.ms : Nat) : Int))
      let restart := e.time.runTime + 8 * b.cal.margin
      b.anchorFor e g false = (instant.toNat, false) ∧
      (instant < restart → b.anchorFor e g true = (restart, true)) ∧
      ((restart : Int) ≤ instant → b.anchorFor e g true = (instant.toNat, false))) ∧
  -- R150, R153: a change of time
  (∀ (e : Env) (b : Body) (before after : TowerTime),
    let full := fun (t : TowerTime) => t.day * 86400000 + t.ms
    (b.port.loading = true → ∀ w, b.timeChange e w after = b) ∧
    (b.port.loading = false →
      b.timeChange e none after = b.recomputeAll e ∧
      (full after < full before → b.timeChange e (some before) after = b.recomputeAll e) ∧
      (full after = full before → b.timeChange e (some before) after = b) ∧
      (full before < full after →
        b.timeChange e (some before) after = b.forwardStep e before after))) ∧
  -- R151, R152: a forward step
  ∀ (e : Env) (b : Body) (before after : TowerTime),
    let fullTime := fun (t : TowerTime) => t.day * 86400000 + t.ms
    let full := fun (g : Trigger) => g.day * 86400000 + g.ms
    let within := fullTime after - fullTime before ≤ b.cal.catchUp * 1000
    let skipped := b.skipped before after
    (∀ x : Entry, x.fields = none ∨ x.enabled = false → skipped x = []) ∧
    (∀ (x : Entry) (f : EntryFields), x.fields = some f → x.enabled = true →
      f.recurrence.TimesInRange →
      (skipped x).Pairwise (fun g k => full g < full k) ∧
      ∀ g, g ∈ skipped x ↔ f.recurrence.Occurs after g ∧
        fullTime before + b.cal.preRoll < full g ∧ full g ≤ fullTime after + b.cal.preRoll ∧
        ∀ l ∈ x.lastFired, full l < full g) ∧
    let recorded := fun (x : Entry) =>
      let gs := if within then (skipped x).dropLast else skipped x
      { x with
        lastOutcome := if gs = [] then x.lastOutcome else some .missed
        missed := x.missed + BitVec.ofNat 32 gs.length
        lastFired := if gs = [] then x.lastFired else gs.getLast? }
    let u := { b with cal := { b.cal with entries := b.cal.entries.map fun (x : Entry) =>
      { recorded x with next := if b.port.loading then none
                                else e.time.tower.bind (recorded x).nextOccurrence } } }
    let v := if ∀ n ∈ List.range 48, skipped (b.entry n) = [] then u else u.raise .calendarMissed
    ∃ (order : List Msg) (d : Nat), order.Nodup ∧
      (∀ m, m ∈ order ↔ ∃ n < 48,
        (within ∧ ∃ g, (skipped (b.entry n)).getLast? = some g ∧ m = .caughtUp n g) ∨
        (¬ (within ∧ skipped (b.entry n) ≠ []) ∧ v.occurrenceDue e n = true ∧ m = .occurrence n)) ∧
      b.forwardStep e before after = { v with mail := order ++ b.mail, draws := d }

/-! ### The Console Interface -/

/-- R161 to R167, R169, R170, R206: the events of the Console Link enter the FIFO or are counted, whole or byte by
byte, and the head of the FIFO is considered: an OPEN is taken, a CLOSE drains the session, a KEY is offered
to player 0 while there is room, or ignored. What follows an unknown kind, and the rows of whole frames, are
the model's choices (log 16, log 18), and so are generation DONE of player 0 as a CLOSE drains it (log 55) and
where the head's next consideration stands among the events handed on (log 6). -/
def Obligations.ConsoleEventsArrive : Prop :=
  (∀ (s : State) (c : Instr) (kind : ConsoleKind), s.rst.held = false →
    (c = .consoleOpen ∧ kind = .openSession) ∨ (c = .consoleClose ∧ kind = .close) ∨
      (∃ pitch force : Byte, c = .consoleKey pitch force ∧ pitch.toNat ≤ 95 ∧ 1 ≤ force.toNat ∧
        force.toNat ≤ 15 ∧ kind = .key pitch.toNat force.toNat) →
    let con := { s.body.con with lastByte := some s.now, rx := [], strayRun := false }
    (con.fifo.length < 64 → exec c s = .next (s.act fun _ b => (b.setCon { con with
      fifo := con.fifo ++ [{ kind := kind, arrival := s.now }], events := con.events + 1
      hold := if con.settings.hold ≤ con.fifo.length + 1 then true else con.hold }).send
        .considerHead)) ∧
    (64 ≤ con.fifo.length →
      exec c s = .next (s.act fun _ b => b.setCon { con with overrun := con.overrun + 1 }))) ∧
  (∀ s : State, s.rst.held = false →
    let con := { s.body.con with lastByte := some s.now, rx := [], strayRun := false }
    let bad := s.body.setCon { con with malformed := con.malformed + 1 }
    exec .alive s = .next (s.setBody (s.body.setCon con)) ∧
    exec .malformedConsoleFrame s = .next (s.setBody bad) ∧
    ∀ pitch force : Byte, 95 < pitch.toNat ∨ force.toNat = 0 ∨ 15 < force.toNat →
      exec (.consoleKey pitch force) s = .next (s.act fun _ _ => bad)) ∧
  (∀ (s : State) (x : Byte), s.rst.held = false →
    let con := { s.body.con with lastByte := some s.now }
    let told := fun c => exec (.consoleLinkByte x) s = .next (s.act fun _ b => b.setCon c)
    let kinds : List Byte := [129, 130, 131, 132]
    (con.rx = [] → x.toNat < 128 → told (if con.strayRun then con
      else { con with malformed := con.malformed + 1, strayRun := true })) ∧
    (x ∈ kinds → told { con with
      rx := [x], strayRun := false
      malformed := con.malformed + (if con.rx = [] then 0 else 1) }) ∧
    (128 ≤ x.toNat → x ∉ kinds → told { con with
      rx := [], strayRun := true
      malformed := con.malformed + (if con.rx = [] then 1 else 2) }) ∧
    (∀ kind rest, con.rx = kind :: rest → kind ∈ kinds → x.toNat < 128 →
      let follow := if kind = 130 then 3 else 1
      (con.rx.length < follow → told { con with rx := con.rx ++ [x] }) ∧
      (con.rx.length = follow → exec (.consoleLinkByte x) s = .next (s.act fun e b =>
        (b.setCon { con with rx := [] }).frameArrival e (judgeFrame (con.rx ++ [x])))))) ∧
  (∀ (e : Env) (b : Body),
    let c := b.con
    b.frameArrival e .alive = b ∧
    b.frameArrival e .malformed = b.setCon { c with malformed := c.malformed + 1 } ∧
    ∀ kind,
      (c.fifo.length < 64 → b.frameArrival e (.event kind) = (b.setCon { c with
        fifo := c.fifo ++ [{ kind := kind, arrival := e.now }], events := c.events + 1
        hold := if c.settings.hold ≤ c.fifo.length + 1 then true else c.hold }).send .considerHead) ∧
      (64 ≤ c.fifo.length →
        b.frameArrival e (.event kind) = b.setCon { c with overrun := c.overrun + 1 })) ∧
  (∀ (e : Env) (b : Body),
    let c := b.con
    let removed := { c with
      fifo := c.fifo.tail, inFlight := false
      hold := if c.fifo.tail.length ≤ c.settings.resume then false else c.hold }
    let u := b.setCon removed
    let accepted := c.session = .off ∧ c.settings.enable = true ∧ b.port.loading = false
    (accepted →
      let v := (u.launch e
        { player := 0, origin := .console, piece := .console c.settings.map, anchor := none,
          claimKind := .partialClaim, priority := c.settings.priority,
          preemptive := c.settings.preemptive, waitLimit := 0, policy := .defer,
          slack := c.settings.slack, notice := false, lateStart := false }).1
      let w := (v.setCon { v.con with
        session := .live, openInstant := some e.now, closeCause := none,
        sessions := v.con.sessions + 1 }).raise .consoleSession
      b.takeOpen e = w.setCon { w.con with lamps := w.con.lamps.mapIdx fun k _ =>
        if (w.lookup e 0 w.con.settings.map k).isSome then .held else .lost }) ∧
    (¬ accepted → b.takeOpen e =
      b.setCon { removed with openRefused := c.openRefused + 1, refusedOwed := true }) ∧
    (c.fifo = [] → b.considerHead e = b) ∧
    ∀ h rest, c.fifo = h :: rest →
      (h.kind = .openSession → b.considerHead e = (b.takeOpen e).send .considerHead) ∧
      (h.kind = .close → c.session ≠ .live → b.considerHead e = u.send .considerHead) ∧
      (h.kind = .close → c.session = .live → b.considerHead e = Body.send
        (Body.drain e.now (((b.setCon { removed with
          closeCause := some .close, session := .closing }).raise .consoleSession).modPlayer 0
            fun x => { x with closeCause := some .close }) 0) .considerHead) ∧
      ∀ pitch force, h.kind = .key pitch force →
        (c.inFlight = true → b.considerHead e = b) ∧
        (c.inFlight = false → c.session = .live →
          b.considerHead e = if b.occupancy < 256 then b.setCon { c with inFlight := true } else b) ∧
        (c.inFlight = false → c.session ≠ .live → b.considerHead e =
          (b.setCon { removed with ignoredKey := c.ignoredKey + 1 }).send .considerHead)) ∧
  ∀ x pitch force : Byte,
    judgeFrame [129, x] = (if x = 1 then .event .openSession else .malformed) ∧
    judgeFrame [131, x] = (if x = 3 then .event .close else .malformed) ∧
    judgeFrame [132, x] = (if x = 4 then .alive else .malformed) ∧
    judgeFrame [130, pitch, force, x] =
      (if x = (130 ^^^ pitch ^^^ force) &&& 127 ∧ pitch.toNat ≤ 95 ∧ 1 ≤ force.toNat ∧ force.toNat ≤ 15
       then .event (.key pitch.toNat force.toNat) else .malformed)

/-- R121, R167 to R171, R173, R174, R205, R206: SET-CONSOLE, END-CONSOLE, the loss of the link, the key in
flight, a report sent, and the frames of the reports. The model's choices: when the transmitter begins a report
(log 32); that a lamp report on the way at a session's end is recorded as sent (log 57); that the key's row has no
effect with no key in flight (log 4); generation DONE of player 0 as it drains (log 55); where the head's consideration stands among the events handed on (log 6). -/
def Obligations.SessionCommandsAndKeys : Prop :=
  (∀ (s : State) (p : List Byte) (c : ConsoleSettings), Heard s p → parseSetConsole p = some c →
    let old := s.body.con.settings
    let kept := c.hold = old.hold ∧ c.resume = old.resume ∧ c.map = old.map
    (s.body.con.session ≠ .off → ¬ kept →
      exec (.setConsole p) s = .next (s.answer p { status := .inUse, payload := [] })) ∧
    (s.body.con.session = .off ∨ kept →
      exec (.setConsole p) s = .next (((s.heard p).setBody ((s.heard p).body.setCon
        { s.body.con with settings := c })).respond .plain))) ∧
  (∀ s : State, s.rst.held = false → s.body.port.loading = false →
    let drained := fun (s : State) (cause : CloseCause) => s.act fun e b => Body.send
      (Body.drain e.now (((b.setCon { b.con with closeCause := some cause, session := .closing }).raise
        .consoleSession).modPlayer 0 fun x => { x with closeCause := some cause }) 0) .considerHead
    (s.body.con.session = .off →
      exec (.endConsoleEnd (u8 0)) s = .next (s.answer (u8 0) { status := .notActive, payload := [] }) ∧
      exec (.endConsoleCut (u8 1)) s = .next (s.answer (u8 1) { status := .notActive, payload := [] })) ∧
    (s.body.con.session = .closing →
      exec (.endConsoleEnd (u8 0)) s = .next (s.answer (u8 0) .plain)) ∧
    (s.body.con.session = .live →
      exec (.endConsoleEnd (u8 0)) s = .next ((drained (s.heard (u8 0)) .endConsole).respond .plain)) ∧
    (s.body.con.session ≠ .off →
      exec (.endConsoleCut (u8 1)) s = .next (((s.heard (u8 1)).act fun e b =>
        Body.enterFree e.now ((b.setCon { b.con with closeCause := some .cut }).withdrawPlayer 0) 0
          .stopped).respond .plain)) ∧
    (∀ m, s.body.con.session = .live → s.body.con.lastByte = some m → m + 40000 ≤ s.now →
      exec .linkLoss s = .next (drained (s.setBody (s.body.setCon
        { s.body.con with linkLost := s.body.con.linkLost + 1 })) .linkLost))) ∧
  (∀ (s : State) (pitch force arrival : Nat) (rest : List ConsoleEvent), s.rst.held = false →
    s.body.con.fifo = { kind := .key pitch force, arrival := arrival } :: rest →
    (s.body.con.inFlight = false → exec .player0Key s = .next s) ∧
    (s.body.con.inFlight = true →
      let c := s.body.con
      let taken := { c with
        fifo := rest, inFlight := false
        hold := if rest.length ≤ c.settings.resume then false else c.hold }
      ((s.body.player 0).state ≠ .playing → exec .player0Key s = .next (s.act fun _ b =>
        (b.setCon { taken with ignoredKey := c.ignoredKey + 1 }).send .considerHead)) ∧
      ∀ f, (s.body.player 0).state = .playing → (s.body.player 0).perf = some f →
        let b := s.body.modPlayer 0 fun x => { x with recordsRead := x.recordsRead + 1 }
        (b.lookup s.env 0 (f.map.getD .a) pitch = none → exec .player0Key s = .next (s.act fun _ _ =>
          ((b.modPlayer 0 fun x => { x with muted := x.muted + 1, lost := true }).setCon taken).send
            .considerHead)) ∧
        ∀ i, b.lookup s.env 0 (f.map.getD .a) pitch = some i →
          let r := b.askAdmission s.env 0
            { bell := i, force := force, origin := .console, player := some 0, tunePosition := none,
              policy := .defer, slack := 8 * f.slack
              sounding := match c.settings.latency with
                | .equal => arrival + 8 * c.settings.delay
                | .direct => arrival + (s.bell i).estimate (if force ≤ 8 then .soft else .loud) + 1 }
          exec .player0Key s = .next (s.act fun _ _ =>
            if r.2 = .refused .full then r.1.setCon { r.1.con with inFlight := false }
            else r.1.keyDone))) ∧
  (∀ (s : State) (r : Report), s.rst.held = false → s.body.con.sending = some r →
    let c := { s.body.con with sending := none }
    let after : Console := match r with
      | .refused => { c with refusedOwed := false }
      | .session st o => { c with sentState := some (st, o) }
      | .lamp pitch v => { c with sentLamps := c.sentLamps.set pitch v }
    exec .consoleReportSent s = .next (s.setBody (s.body.setCon after.transmit))) ∧
  (let closed := fun bytes : List Byte => bytes ++ [bytes.foldl (· ^^^ ·) 0 &&& 127]
   Report.refused.frame = closed [145] ∧
   ([none, some Fate.completed, some .completedPartial, some .linkLost, some .stopped,
     some .reset].map fun o => (Report.session .off o).frame) =
     [0, 1, 2, 3, 4, 5].map (fun x => closed [144, 0, x]) ∧
   (∀ o, (Report.session .live o).frame = closed [144, 1, 0] ∧
     (Report.session .closing o).frame = closed [144, 2, 0]) ∧
   ∀ pitch, (Report.lamp pitch .held).frame = closed [146, BitVec.ofNat 8 pitch, 1] ∧
     (Report.lamp pitch .lost).frame = closed [146, BitVec.ofNat 8 pitch, 0]) ∧
  (∀ b : Body, b.keyDone = Body.send (b.setCon { b.con with
    fifo := b.con.fifo.drop 1, inFlight := false
    hold := if (b.con.fifo.drop 1).length ≤ b.con.settings.resume then false else b.con.hold })
      .considerHead) ∧
  (∀ (b : Body) (fate : Fate),
    (b.con.session = .off → b.consoleEnd fate = b) ∧
    (b.con.session ≠ .off → b.consoleEnd fate = Body.send (Body.raise (b.setCon { b.con with
      session := .off, lastOutcome := some fate, lamps := List.replicate 96 .lost,
      sentLamps := List.replicate 96 .lost }) .consoleSession) .considerHead)) ∧
  ∀ c : Console, c.sending = none →
    let told := (c.session, if c.session = .off then c.lastOutcome else none)
    (c.refusedOwed = true → c.transmit = { c with sending := some .refused }) ∧
    (c.refusedOwed = false → c.sentState ≠ some told →
      c.transmit = { c with sending := some (.session told.1 told.2) }) ∧
    (c.refusedOwed = false → c.sentState = some told → ∀ k < 96,
      c.lamps.getD k .lost ≠ c.sentLamps.getD k .lost →
      (∀ j < k, c.lamps.getD j .lost = c.sentLamps.getD j .lost) →
      c.transmit = { c with sending := some (.lamp k (c.lamps.getD k .lost)) }) ∧
    (c.refusedOwed = false → c.sentState = some told →
      (∀ k < 96, c.lamps.getD k .lost = c.sentLamps.getD k .lost) → c.transmit = c)

/-! ### The Schedule Port -/

/-- R189 to R191, R193, R194, R199, R202, R203: READY and NOTICE, a notice raised, the CRC, the bytes that a
transaction clocks out, a transaction that reads a response, a request that fails the frame check, which byte
names which command, a byte that names none, and the notice commands. That a request's row carries its payload is
the model's choice (log 8). -/
def Obligations.PortTransactionsAndNotices : Prop :=
  (∀ (s : State) (n : Nat), s.rst.held = false →
    (s.body.port.response = none → exec (.readTransaction n) s = .next s) ∧
    ∀ r, s.body.port.response = some r →
      (r.payload.length + 4 ≤ n →
        exec (.readTransaction n) s = .next (s.setPort { s.body.port with response := none })) ∧
      (n < r.payload.length + 4 → exec (.readTransaction n) s = .next s)) ∧
  (∀ bytes, frameGood bytes = true ↔
    4 ≤ bytes.length ∧ byteAt bytes 1 ≤ 248 ∧ bytes.length = byteAt bytes 1 + 4 ∧
    (crc16 (bytes.take (bytes.length - 2))).toNat =
      256 * byteAt bytes (bytes.length - 2) + byteAt bytes (bytes.length - 1)) ∧
  (∀ (s : State) (bytes : List Byte), s.rst.held = false → frameGood bytes = false →
    (∃ x ∈ bytes, x ≠ 255) →
    exec (.badFrameRequest bytes) s = .next (s.setPort { s.body.port with
      badFrames := s.body.port.badFrames + 1
      response := some { status := .badFrame, payload := [] }
      discarded := match s.body.port.response with
        | none => s.body.port.discarded
        | some r => if r.payload.length + 4 ≤ bytes.length then s.body.port.discarded
          else s.body.port.discarded + 1 })) ∧
  (∀ (s : State) (c : Byte) (p : List Byte), s.rst.held = false → c.toNat ∉ commandBytes →
    p.length ≤ 248 →
    exec (.unknownCommand c p) s = .next (s.answer p
      { status := if s.body.port.loading then .starting else .unknownCommand, payload := [] })) ∧
  -- READY and NOTICE, and a notice raised
  (∀ p : Port, (p.ready = true ↔ p.response ≠ none) ∧
    (p.notice = true ↔
      ∃ n : Notice, p.pendingFlags.getLsbD n.bit = true ∧ p.enabled.getLsbD n.bit = true)) ∧
  ([Notice.perfEnd, .preempted, .claimTimeout, .bellFailed, .boardOffline, .boardOnline, .clockState,
    .clockStep, .queueFull, .consoleSession, .access, .calendarMissed, .configError].map Notice.bit =
      List.range 13) ∧
  (∀ (p : Port) (n : Notice),
    p.raise n = { p with pendingFlags := (p.raise n).pendingFlags
                         raises := p.raises.modify n.bit (· + 1) } ∧
    ∀ k : Notice, (p.raise n).pendingFlags.getLsbD k.bit =
      (p.pendingFlags.getLsbD k.bit || decide (k = n))) ∧
  -- R202: the CRC
  (∀ (bytes : List Byte) (x : Byte),
    let shift := fun c : BitVec 16 => if c.getLsbD 15 then (c <<< 1) ^^^ 0x1021 else c <<< 1
    crc16 [] = 65535 ∧ crc16 (bytes ++ [x]) =
      (List.range 8).foldl (fun c _ => shift c) (crc16 bytes ^^^ (x.zeroExtend 16 <<< 8))) ∧
  -- the bytes on SPDO, and the frames
  (∀ (s : State) (n : Nat), (s.clockedOut n).length = n ∧ ∀ i < n,
    (s.rst.held = true ∨ s.body.port.response = none → byteAt (s.clockedOut n) i = 255) ∧
    ∀ r, s.rst.held = false → s.body.port.response = some r →
      byteAt (s.clockedOut n) i = (r.frame.getD i 255).toNat) ∧
  (∀ (r : Response) (command : Byte) (payload : List Byte),
    let closed := fun head : List Byte => head ++
      [BitVec.ofNat 8 ((crc16 head).toNat / 256), BitVec.ofNat 8 (crc16 head).toNat]
    r.frame = closed (BitVec.ofNat 8 r.status.code :: BitVec.ofNat 8 r.payload.length :: r.payload) ∧
    requestFrame command payload =
      closed (command :: BitVec.ofNat 8 payload.length :: payload)) ∧
  ([Status.ok, .badFrame, .unknownCommand, .badOperand, .inUse, .noSpace, .notActive, .outOfSequence,
    .badContent, .clockOwnsTime, .ignored, .empty, .noTune, .noPlayer, .unavailable, .starting].map
      Status.code = List.range 16) ∧
  -- R203: the command bytes
  (∀ p : List Byte,
    ([16, 17, 18, 19].map fun n => commandNamed n p) =
      [some (.setTime p), some (.snapshot p), some (.readSnapshot p), some (.readClock p)] ∧
    ([32, 33, 34, 35, 36, 37].map fun n => commandNamed n p) =
      [some (.readBell p), some (.setBell p), some (.lockBell p), some (.unlockBell p),
       some (.restoreBell p), some (.testStrike p)] ∧
    ([48, 49].map fun n => commandNamed n p) = [some (.writeMap p), some (.readMap p)] ∧
    ([56, 57, 58, 59, 60, 61].map fun n => commandNamed n p) =
      [some (.openTune p), some (.writeTune p), some (.closeTune p), some (.eraseTune p),
       some (.readTuneInfo p), some (.readStore p)] ∧
    ([64, 65, 66, 67, 68, 69].map fun n => commandNamed n p) =
      [some (.writeEntry p), some (.enableEntry p), some (.disableEntry p), some (.clearEntry p),
       some (.readEntry p), some (.setCalendar p)] ∧
    ([80, 82, 88, 89].map fun n => commandNamed n p) =
      [some (.playNow p), some (.readPlayer p), some (.readQueue p), some (.setQueue p)] ∧
    ([96, 97].map fun n => commandNamed n p) = [some (.setConsole p), some (.readConsole p)] ∧
    ([104, 105].map fun n => commandNamed n p) = [some (.setBus p), some (.readBus p)] ∧
    ([112, 113, 114].map fun n => commandNamed n p) =
      [some (.readNotices p), some (.clearNotices p), some (.setNoticeMask p)] ∧
    ([126, 127].map fun n => commandNamed n p) = [some (.restart p), some (.identify p)] ∧
    (∀ q, parseStopPlayer p = some (q, .finish) → commandNamed 81 p = some (.stopPlayerFinish p)) ∧
    ((∀ q, parseStopPlayer p ≠ some (q, .finish)) → commandNamed 81 p = some (.stopPlayerStop p)) ∧
    (parseEndConsole p = some .cut → commandNamed 98 p = some (.endConsoleCut p)) ∧
    (parseEndConsole p ≠ some .cut → commandNamed 98 p = some (.endConsoleEnd p)) ∧
    ∀ n, commandNamed n p = none ↔ n ∉ commandBytes) ∧
  -- R189, R190: which row a transaction is
  (∀ bytes : List Byte,
    ((∀ x ∈ bytes, x = 255) → transactionRow bytes = .readTransaction bytes.length) ∧
    ((∃ x ∈ bytes, x ≠ 255) → frameGood bytes = false →
      transactionRow bytes = .badFrameRequest bytes)) ∧
  (∀ (command : Byte) (p : List Byte), p.length ≤ 248 →
    frameGood (requestFrame command p) = true ∧
    (command.toNat ∉ commandBytes →
      transactionRow (requestFrame command p) = .unknownCommand command p) ∧
    ∀ c, commandNamed command.toNat p = some c → transactionRow (requestFrame command p) = c) ∧
  ∀ (s : State) (p : List Byte) (kinds : BitVec 13), Heard s p → p = u16 kinds.toNat →
    let flags := s.body.port.pendingFlags &&& ~~~kinds
    exec (.clearNotices p) s = .next (((s.heard p).setPort { s.body.port.heard p with
      pendingFlags := flags }).respond { status := .ok, payload := u16 flags.toNat }) ∧
    exec (.setNoticeMask p) s = .next (((s.heard p).setPort { s.body.port.heard p with
      enabled := kinds }).respond .plain)

/-- The events that blocks hand one another are taken in turn within the step, each by the block it is handed to:
a removal event (R118), a hammer that is free (R69), a grant (R98, R106), a generation decision (R108), a
holding event (R99, R172), the head of the Console FIFO (R165), the end of a session (R171) and of a calendar
performance (R149), an occurrence and one taken late (R147, R151); then an idle transmitter begins what is owed
(R173). They leave time, the note records, the bell records, the maps, the RST line, the BELFRY input and the queue
of commands as they are, and in every block its settings, board records, received bytes and tunes. The order is the
model's choice (log 6), and so are the bound on their number (log 7), that an occurrence waits for the events of the
one before (log 6), that lamps follow at each bell's event (log 44), and that a report is begun at the end of the
event that owes it (log 32). -/
def Obligations.HandedEventsAreTakenInTurn : Prop :=
  -- in turn, until none is left
  (∀ (s : State) (f : Env → Body → Body), s.act f = (s.setBody (f s.env s.body)).finish) ∧
  (∀ s : State,
    let b := Body.settleFor s.env 18446744073709551616 s.body
    s.finish = s.setBody { b with con := b.con.transmit }) ∧
  (∀ (e : Env) (n : Nat) (b : Body),
    (b.mail = [] → Body.settleFor e n b = b) ∧
    ∀ m rest, b.mail = m :: rest →
      Body.settleFor e (n + 1) b = Body.settleFor e n (Body.handle e { b with mail := rest } m)) ∧
  -- each by its owner
  (∀ (e : Env) (b : Body),
    (∀ p way queued total, b.handle e (.removal p way queued total) = b.takeRemoval e p way queued) ∧
    (∀ p, b.handle e (.grant p) = b.takeGrant e p) ∧
    (∀ p, b.handle e (.decide p) = b.takeDecision e p) ∧
    b.handle e .considerHead = b.considerHead e ∧
    (∀ fate, b.handle e (.consoleEnd fate) = b.consoleEnd fate) ∧
    (∀ n p fate, b.handle e (.calendarEnd n p fate) = b.calendarEnd n p fate) ∧
    (∀ bell,
      let due := fun k : Strike => k.bell = bell ∧ k.state = .due
      let free := b.sched.access = false ∧ (b.hammer bell).state = .idle ∧
        ∀ o ∈ b.bus.sendList, o.bell ≠ bell
      ((∀ k ∈ b.sched.queue, ¬ due k) → b.handle e (.hammerFree bell) = b) ∧
      (¬ free → b.handle e (.hammerFree bell) = b) ∧
      (free → ∀ earlier k later, b.sched.queue = earlier ++ k :: later → due k →
        (∀ x ∈ earlier, ¬ due x) → b.handle e (.hammerFree bell) = b.handOff e earlier.length)) ∧
    (∀ bell,
      let names := fun k => (e.entryOf b.con.settings.map k).primary = some bell ∨
        (e.entryOf b.con.settings.map k).alternate = some bell
      (b.con.session = .off → b.handle e (.holding bell) = b) ∧
      (b.con.session ≠ .off → b.handle e (.holding bell) = b.setCon { b.con with
        lamps := b.con.lamps.mapIdx fun k v =>
          if names k then (if (b.lookup e 0 b.con.settings.map k).isSome then .held else .lost)
          else v })) ∧
    (let alone := ∀ m ∈ b.mail, (∃ n, m = .occurrence n) ∨ ∃ n g, m = .caughtUp n g
     (∀ n, alone →
       (∀ g, (b.entry n).next = some g → b.occurrenceDue e n = true →
         b.handle e (.occurrence n) = b.takeOccurrence e n g false) ∧
       (b.occurrenceDue e n = false → b.handle e (.occurrence n) = b)) ∧
     (∀ n g, alone → b.handle e (.caughtUp n g) = b.takeOccurrence e n g true) ∧
     (¬ alone → (∀ n, b.handle e (.occurrence n) = b.send (.occurrence n)) ∧
       ∀ n g, b.handle e (.caughtUp n g) = b.send (.caughtUp n g)))) ∧
  -- what they leave
  ∀ s : State, State.Outside s s.finish ∧ s.finish.bells = s.bells ∧
    s.finish.body.still = s.body.still
end

