-- ==== Sys2Proof/Laws/Calendar.lean ====
section
/-! SUPPORT. The triggers of a recurrence: which they are, and that they stand in order. -/

namespace Sys2Proof.Machine

set_option Elab.async false

/-- A trigger of a time of day in range lies within its day. -/
theorem clockMs_lt {h m s : Nat} (hh : h ≤ 23) (hm : m ≤ 59) (hs : s ≤ 59) :
    clockMs h m s < dayLength := by
  unfold clockMs dayLength; omega

/-- The triggers on a day of its own weekday are the occurrences on it. -/
theorem Recurrence.mem_triggersOn (r : Recurrence) (t : TowerTime) (d : Nat) (g : Trigger)
    (hd : d ≤ 65535) : g ∈ r.triggersOn d (t.weekdayOf d) ↔ g.day = d ∧ r.Occurs t g := by
  obtain ⟨gd, gm⟩ := g
  have hw : ∀ k : Nat, (((t.weekday : Int) + k - t.day) % 7).toNat = t.weekdayOf k := fun _ => rfl
  simp only [triggersOn, Occurs, clockMs, hw]
  cases r.kind <;> simp only
  · by_cases h : d = r.day
    · simp only [if_pos h, List.mem_singleton, Trigger.mk.injEq]
      exact ⟨fun ⟨a, c⟩ => ⟨a, a ▸ hd, a.trans h, c⟩, fun ⟨a, _, _, c⟩ => ⟨a, c⟩⟩
    · simp only [if_neg h, List.not_mem_nil, false_iff]
      rintro ⟨rfl, -, a, -⟩
      exact h a
  all_goals
    by_cases h : r.mask.testBit (t.weekdayOf d) = true
    · simp only [if_pos h, List.mem_singleton, List.mem_map, List.mem_filter, List.mem_range,
        decide_eq_true_eq, Trigger.mk.injEq]
      constructor <;> aesop
    · simp only [if_neg h, List.not_mem_nil, false_iff]
      rintro ⟨rfl, -, a, -⟩
      exact h a

/-- With the time fields in range a DAILY or HOURLY occurrence lies within its day. -/
theorem Recurrence.Occurs.ms_lt {r : Recurrence} {t : TowerTime} {g : Trigger} (h : r.Occurs t g)
    (hr : r.TimesInRange) : g.ms < dayLength := by
  obtain ⟨hm, hs, hh⟩ := hr
  have hk := h.2
  revert hk
  cases hkind : r.kind <;> simp only
  · rintro ⟨-, h⟩; rw [h]; exact clockMs_lt (hh (by simp [hkind])) hm hs
  · rintro ⟨-, h⟩; rw [h]; exact clockMs_lt (hh (by simp [hkind])) hm hs
  · rintro ⟨-, k, -, -, hk, h⟩; rw [h]; exact clockMs_lt (by omega) hm hs

/-- The triggers on one day stand in order. -/
theorem Recurrence.triggersOn_sorted (r : Recurrence) (d w : Nat) :
    (r.triggersOn d w).Pairwise fun g k => g.full < k.full := by
  unfold triggersOn
  cases r.kind <;> simp only <;> split
  · exact List.pairwise_singleton _ _
  · exact List.Pairwise.nil
  · exact List.pairwise_singleton _ _
  · exact List.Pairwise.nil
  · refine ((List.pairwise_lt_range (n := 24)).filter _).map _ ?_
    intro a c h
    simp only [Trigger.full, clockMs]
    omega
  · exact List.Pairwise.nil

/-- The occurrences on days that rise: which they are, and that they stand in order. -/
theorem Recurrence.occurrences (r : Recurrence) (t : TowerTime) (days : List Nat)
    (hr : r.TimesInRange) (hd : days.Pairwise (· < ·)) (hb : ∀ d ∈ days, d ≤ 65535) :
    let l := days.flatMap fun d => r.triggersOn d (t.weekdayOf d)
    (∀ g, g ∈ l ↔ g.day ∈ days ∧ r.Occurs t g) ∧ l.Pairwise fun g k => g.full < k.full := by
  intro l
  have hmem : ∀ g, g ∈ l ↔ g.day ∈ days ∧ r.Occurs t g := by
    intro g
    simp only [l, List.mem_flatMap]
    constructor
    · rintro ⟨d, h, hg⟩
      rw [r.mem_triggersOn t d g (hb d h)] at hg
      exact ⟨hg.1 ▸ h, hg.2⟩
    · rintro ⟨h, hg⟩
      exact ⟨_, h, (r.mem_triggersOn t _ g (hb _ h)).2 ⟨rfl, hg⟩⟩
  refine ⟨hmem, ?_⟩
  simp only [l, List.pairwise_flatMap]
  refine ⟨fun d _ => r.triggersOn_sorted d _, ?_⟩
  refine List.Pairwise.imp_of_mem ?_ hd
  intro a c ha hc h g hg k hk
  rw [r.mem_triggersOn t a g (hb a ha)] at hg
  rw [r.mem_triggersOn t c k (hb c hc)] at hk
  have := hg.2.ms_lt hr
  simp only [Trigger.full, dayLength] at *
  omega

end Sys2Proof.Machine
end

