-- ==== Sys2Proof/Laws/Desk.lean ====
section
/-! SUPPORT. Everything a request and an event can come to. -/

namespace Sys2Proof.Machine

set_option Elab.async false

theorem State.running_held {s : State} (h : s.rst.held = true) (f : State → State) :
    s.running f = .next s := by simp [State.running, h]

theorem State.running_free {s : State} (h : s.rst.held = false) (f : State → State) :
    s.running f = .next (f s) := by simp [State.running, h]

theorem State.running_next (s : State) (f : State → State) : ∃ t, s.running f = .next t := ⟨_, rfl⟩

variable {α : Type} {s : State} {payload : List Byte} {parse : List Byte → Option α}
  {owner : State → α → State × Response}

theorem State.request_next : ∃ t, s.request payload parse owner = .next t := ⟨_, rfl⟩

theorem State.request_held (h : s.rst.held = true) : s.request payload parse owner = .next s :=
  State.running_held h _

theorem State.arrive_loading (n : Nat) : (s.arrive n).body.port.loading = s.body.port.loading := by
  unfold State.arrive Port.transaction
  split
  · rfl
  · split
    · rfl
    · rfl

/-- R190, R203: a payload above 248 bytes has no frame. -/
theorem State.request_long (h : s.rst.held = false) (hn : 248 < payload.length) :
    s.request payload parse owner =
      .next (s.setPort (s.body.port.transaction (payload.length + 4) true)).badFrame := by
  unfold State.request
  rw [State.running_free h, if_pos hn]

/-- R191, step 1. -/
theorem State.request_loading (h : s.rst.held = false) (hn : payload.length ≤ 248)
    (hl : s.body.port.loading = true) :
    s.request payload parse owner =
      .next ((s.arrive (payload.length + 4)).respond (.refuse .starting)) := by
  unfold State.request
  rw [State.running_free h, if_neg (by omega)]
  simp [State.arrive_loading, hl]

/-- R191, step 3. -/
theorem State.request_badOperand (h : s.rst.held = false) (hn : payload.length ≤ 248)
    (hl : s.body.port.loading = false) (hp : parse payload = none) :
    s.request payload parse owner =
      .next ((s.arrive (payload.length + 4)).respond (.refuse .badOperand)) := by
  unfold State.request
  rw [State.running_free h, if_neg (by omega)]
  simp [State.arrive_loading, hl, hp]

/-- R191, step 4. -/
theorem State.request_owner {x : α} (h : s.rst.held = false) (hn : payload.length ≤ 248)
    (hl : s.body.port.loading = false) (hp : parse payload = some x) :
    s.request payload parse owner =
      .next ((owner (s.arrive (payload.length + 4)) x).1.respond
        (owner (s.arrive (payload.length + 4)) x).2) := by
  unfold State.request
  rw [State.running_free h, if_neg (by omega)]
  simp [State.arrive_loading, hl, hp]

/-- R189: a waiting response clocked out whole is read. -/
theorem Port.transaction_read {p : Port} {r : Response} {n : Nat} (arrives : Bool)
    (h : p.response = some r) (hn : r.size ≤ n) :
    p.transaction n arrives = { p with response := none } := by
  simp [Port.transaction, h, hn]

/-- R189: a request that arrives while a response waits unread discards it. -/
theorem Port.transaction_discard {p : Port} {r : Response} {n : Nat}
    (h : p.response = some r) (hn : n < r.size) :
    p.transaction n true = { p with response := none, discarded := p.discarded + 1 } := by
  simp [Port.transaction, h, hn]

theorem Port.transaction_none {p : Port} (n : Nat) (arrives : Bool) (h : p.response = none) :
    p.transaction n arrives = p := by simp [Port.transaction, h]

/-- R193: a raise sets its own flag and no other. -/
theorem Port.raise_flag (p : Port) (n k : Notice) :
    (p.raise n).pendingFlags.getLsbD k.bit = (p.pendingFlags.getLsbD k.bit || n == k) := by
  cases n <;> cases k <;> simp [Port.raise, Notice.bit]

/-- R189, R190: the port when a request has arrived. -/
theorem State.arrive_heard (s : State) (p : List Byte) : s.arrive (p.length + 4) = s.heard p := by
  unfold State.arrive State.heard Port.heard Port.transaction
  cases h : s.body.port.response with
  | none => simp [h]
  | some r =>
    simp only [Response.size]
    by_cases hr : r.payload.length ≤ p.length <;> simp [hr]

/-- R191, step 4: a request whose operands are read reaches its owner. -/
theorem State.request_heard {x : α} (h : Heard s payload) (hp : parse payload = some x) :
    s.request payload parse owner =
      .next ((owner (s.heard payload) x).1.respond (owner (s.heard payload) x).2) := by
  rw [State.request_owner h.free h.fits h.operating hp, State.arrive_heard]

/-- A read that reaches its owner answers what it reads and changes nothing else. -/
theorem State.request_read {x : α} {bytes : List Byte} (h : Heard s payload)
    (hp : parse payload = some x)
    (ho : owner (s.heard payload) x = (s.heard payload).done bytes) :
    s.request payload parse owner = .next (s.answer payload (.done bytes)) := by
  rw [State.request_heard h hp, ho]
  rfl

/-- A byte-sized operand within its bound is read. -/
theorem parseByte_u8 {n bound : Nat} (h : n ≤ bound) (hb : bound ≤ 255) :
    parseByte bound (u8 n) = some n := by
  have hn : n % 256 = n := by omega
  simp [parseByte, u8, byteAt, check, hn, h]

end Sys2Proof.Machine
end

