-- ==== Sys2Proof/Laws/Frames.lean ====
section
/-! SUPPORT. Request frames, and the bytes that the part clocks out. -/

namespace Sys2Proof.Machine

set_option Elab.async false

/-- A request frame passes the frame check and carries its command byte and its payload. -/
theorem requestFrame_spec (command : Byte) (p : List Byte) (h : p.length ≤ 248) :
    frameGood (requestFrame command p) = true ∧ (requestFrame command p).getD 0 0 = command ∧
    byteAt (requestFrame command p) 1 = p.length ∧
    ((requestFrame command p).drop 2).take p.length = p := by
  have hl : (requestFrame command p).length = p.length + 4 := by simp [requestFrame, u8, word16, u16]
  have h1 : byteAt (requestFrame command p) 1 = p.length := by
    simp [requestFrame, u8, byteAt]; omega
  refine ⟨?_, rfl, h1, by simp [requestFrame, u8, word16, u16]⟩
  simp only [frameGood, hl, h1, Bool.and_eq_true, decide_eq_true_eq, beq_iff_eq]
  refine ⟨⟨⟨by omega, h⟩, by omega⟩, ?_⟩
  have e1 : (requestFrame command p).take (p.length + 4 - 2) = [command] ++ u8 p.length ++ p := by
    simp [requestFrame, u8, word16, u16]
  have e2 : ∀ c : BitVec 16,
      wordAt ([command] ++ u8 p.length ++ p ++ word16 c) (p.length + 4 - 2) = c.toNat := by
    intro c
    have := c.isLt
    simp [wordAt, byteAt, u8, word16, u16, List.getD_eq_getElem?_getD]
    omega
  rw [e1]
  exact (e2 _).symm

/-- A transaction clocks out as many bytes as it clocks in. -/
@[simp] theorem State.clockedOut_length (s : State) (n : Nat) : (s.clockedOut n).length = n := by
  unfold State.clockedOut
  split
  · simp
  · simp only [Port.clockedOut, List.length_append, List.length_take, List.length_replicate]
    omega

end Sys2Proof.Machine
end

