-- ==== Sys2Proof/Laws/State.lean ====
section
/-! SUPPORT. What each update of a record leaves in each field. -/

namespace Sys2Proof.Machine

set_option Elab.async false

variable (s : State) (b : Body)

/-! ### Updates of the whole -/

@[simp] theorem State.setBody_time (x : Body) : (s.setBody x).time = s.time := rfl
@[simp] theorem State.setBody_memory (x : Body) : (s.setBody x).memory = s.memory := rfl
@[simp] theorem State.setBody_bells (x : Body) : (s.setBody x).bells = s.bells := rfl
@[simp] theorem State.setBody_mapA (x : Body) : (s.setBody x).mapA = s.mapA := rfl
@[simp] theorem State.setBody_mapB (x : Body) : (s.setBody x).mapB = s.mapB := rfl
@[simp] theorem State.setBody_rst (x : Body) : (s.setBody x).rst = s.rst := rfl
@[simp] theorem State.setBody_belfry (x : Body) : (s.setBody x).belfry = s.belfry := rfl
@[simp] theorem State.setBody_pending (x : Body) : (s.setBody x).pending = s.pending := rfl
@[simp] theorem State.setBody_body (x : Body) : (s.setBody x).body = x := rfl
@[simp] theorem State.setBody_setBody (x y : Body) : (s.setBody x).setBody y = s.setBody y := rfl
@[simp] theorem State.setBody_self : s.setBody s.body = s := rfl
@[simp] theorem State.setTime_body (x : TimeBase) : (s.setTime x).body = s.body := rfl
@[simp] theorem State.setTime_memory (x : TimeBase) : (s.setTime x).memory = s.memory := rfl
@[simp] theorem State.setTime_bells (x : TimeBase) : (s.setTime x).bells = s.bells := rfl
@[simp] theorem State.setTime_mapA (x : TimeBase) : (s.setTime x).mapA = s.mapA := rfl
@[simp] theorem State.setTime_mapB (x : TimeBase) : (s.setTime x).mapB = s.mapB := rfl
@[simp] theorem State.setTime_rst (x : TimeBase) : (s.setTime x).rst = s.rst := rfl
@[simp] theorem State.setTime_belfry (x : TimeBase) : (s.setTime x).belfry = s.belfry := rfl
@[simp] theorem State.setTime_pending (x : TimeBase) : (s.setTime x).pending = s.pending := rfl
@[simp] theorem State.setTime_time (x : TimeBase) : (s.setTime x).time = x := rfl
@[simp] theorem State.setPort_time (x : Port) : (s.setPort x).time = s.time := rfl
@[simp] theorem State.setPort_memory (x : Port) : (s.setPort x).memory = s.memory := rfl
@[simp] theorem State.setPort_bells (x : Port) : (s.setPort x).bells = s.bells := rfl
@[simp] theorem State.setPort_mapA (x : Port) : (s.setPort x).mapA = s.mapA := rfl
@[simp] theorem State.setPort_mapB (x : Port) : (s.setPort x).mapB = s.mapB := rfl
@[simp] theorem State.setPort_rst (x : Port) : (s.setPort x).rst = s.rst := rfl
@[simp] theorem State.setPort_belfry (x : Port) : (s.setPort x).belfry = s.belfry := rfl
@[simp] theorem State.setPort_pending (x : Port) : (s.setPort x).pending = s.pending := rfl
@[simp] theorem State.setPort_body (x : Port) : (s.setPort x).body = s.body.setPort x := rfl
@[simp] theorem State.raise_time (x : Notice) : (s.raise x).time = s.time := rfl
@[simp] theorem State.raise_memory (x : Notice) : (s.raise x).memory = s.memory := rfl
@[simp] theorem State.raise_bells (x : Notice) : (s.raise x).bells = s.bells := rfl
@[simp] theorem State.raise_mapA (x : Notice) : (s.raise x).mapA = s.mapA := rfl
@[simp] theorem State.raise_mapB (x : Notice) : (s.raise x).mapB = s.mapB := rfl
@[simp] theorem State.raise_rst (x : Notice) : (s.raise x).rst = s.rst := rfl
@[simp] theorem State.raise_belfry (x : Notice) : (s.raise x).belfry = s.belfry := rfl
@[simp] theorem State.raise_pending (x : Notice) : (s.raise x).pending = s.pending := rfl
@[simp] theorem State.raise_body (x : Notice) : (s.raise x).body = s.body.raise x := rfl

/-! ### Updates of the blocks -/

@[simp] theorem Body.setHammer_hammers (i : Nat) (h : Hammer) :
    (b.setHammer i h).hammers = b.hammers.set i h := rfl
@[simp] theorem Body.setHammer_sched (i : Nat) (h : Hammer) : (b.setHammer i h).sched = b.sched := rfl
@[simp] theorem Body.setHammer_claims (i : Nat) (h : Hammer) : (b.setHammer i h).claims = b.claims := rfl
@[simp] theorem Body.setHammer_players (i : Nat) (h : Hammer) : (b.setHammer i h).players = b.players := rfl
@[simp] theorem Body.setHammer_slots (i : Nat) (h : Hammer) : (b.setHammer i h).slots = b.slots := rfl
@[simp] theorem Body.setHammer_cal (i : Nat) (h : Hammer) : (b.setHammer i h).cal = b.cal := rfl
@[simp] theorem Body.setHammer_con (i : Nat) (h : Hammer) : (b.setHammer i h).con = b.con := rfl
@[simp] theorem Body.setHammer_bus (i : Nat) (h : Hammer) : (b.setHammer i h).bus = b.bus := rfl
@[simp] theorem Body.setHammer_port (i : Nat) (h : Hammer) : (b.setHammer i h).port = b.port := rfl
@[simp] theorem Body.setHammer_mail (i : Nat) (h : Hammer) : (b.setHammer i h).mail = b.mail := rfl
@[simp] theorem Body.setHammer_draws (i : Nat) (h : Hammer) : (b.setHammer i h).draws = b.draws := rfl
@[simp] theorem Body.setPlayer_hammers (p : Nat) (x : Player) : (b.setPlayer p x).hammers = b.hammers := rfl
@[simp] theorem Body.setPlayer_sched (p : Nat) (x : Player) : (b.setPlayer p x).sched = b.sched := rfl
@[simp] theorem Body.setPlayer_claims (p : Nat) (x : Player) : (b.setPlayer p x).claims = b.claims := rfl
@[simp] theorem Body.setPlayer_players (p : Nat) (x : Player) :
    (b.setPlayer p x).players = b.players.set p x := rfl
@[simp] theorem Body.setPlayer_slots (p : Nat) (x : Player) : (b.setPlayer p x).slots = b.slots := rfl
@[simp] theorem Body.setPlayer_cal (p : Nat) (x : Player) : (b.setPlayer p x).cal = b.cal := rfl
@[simp] theorem Body.setPlayer_con (p : Nat) (x : Player) : (b.setPlayer p x).con = b.con := rfl
@[simp] theorem Body.setPlayer_bus (p : Nat) (x : Player) : (b.setPlayer p x).bus = b.bus := rfl
@[simp] theorem Body.setPlayer_port (p : Nat) (x : Player) : (b.setPlayer p x).port = b.port := rfl
@[simp] theorem Body.setPlayer_mail (p : Nat) (x : Player) : (b.setPlayer p x).mail = b.mail := rfl
@[simp] theorem Body.setPlayer_draws (p : Nat) (x : Player) : (b.setPlayer p x).draws = b.draws := rfl
@[simp] theorem Body.modPlayer_hammers (p : Nat) (f : Player → Player) : (b.modPlayer p f).hammers = b.hammers := rfl
@[simp] theorem Body.modPlayer_sched (p : Nat) (f : Player → Player) : (b.modPlayer p f).sched = b.sched := rfl
@[simp] theorem Body.modPlayer_claims (p : Nat) (f : Player → Player) : (b.modPlayer p f).claims = b.claims := rfl
@[simp] theorem Body.modPlayer_players (p : Nat) (f : Player → Player) :
    (b.modPlayer p f).players = b.players.set p (f (b.player p)) := rfl
@[simp] theorem Body.modPlayer_slots (p : Nat) (f : Player → Player) : (b.modPlayer p f).slots = b.slots := rfl
@[simp] theorem Body.modPlayer_cal (p : Nat) (f : Player → Player) : (b.modPlayer p f).cal = b.cal := rfl
@[simp] theorem Body.modPlayer_con (p : Nat) (f : Player → Player) : (b.modPlayer p f).con = b.con := rfl
@[simp] theorem Body.modPlayer_bus (p : Nat) (f : Player → Player) : (b.modPlayer p f).bus = b.bus := rfl
@[simp] theorem Body.modPlayer_port (p : Nat) (f : Player → Player) : (b.modPlayer p f).port = b.port := rfl
@[simp] theorem Body.modPlayer_mail (p : Nat) (f : Player → Player) : (b.modPlayer p f).mail = b.mail := rfl
@[simp] theorem Body.modPlayer_draws (p : Nat) (f : Player → Player) : (b.modPlayer p f).draws = b.draws := rfl
@[simp] theorem Body.setPerf_hammers (p : Nat) (f : Performance) : (b.setPerf p f).hammers = b.hammers := rfl
@[simp] theorem Body.setPerf_sched (p : Nat) (f : Performance) : (b.setPerf p f).sched = b.sched := rfl
@[simp] theorem Body.setPerf_claims (p : Nat) (f : Performance) : (b.setPerf p f).claims = b.claims := rfl
@[simp] theorem Body.setPerf_players (p : Nat) (f : Performance) :
    (b.setPerf p f).players = b.players.set p { b.player p with perf := some f } := rfl
@[simp] theorem Body.setPerf_slots (p : Nat) (f : Performance) : (b.setPerf p f).slots = b.slots := rfl
@[simp] theorem Body.setPerf_cal (p : Nat) (f : Performance) : (b.setPerf p f).cal = b.cal := rfl
@[simp] theorem Body.setPerf_con (p : Nat) (f : Performance) : (b.setPerf p f).con = b.con := rfl
@[simp] theorem Body.setPerf_bus (p : Nat) (f : Performance) : (b.setPerf p f).bus = b.bus := rfl
@[simp] theorem Body.setPerf_port (p : Nat) (f : Performance) : (b.setPerf p f).port = b.port := rfl
@[simp] theorem Body.setPerf_mail (p : Nat) (f : Performance) : (b.setPerf p f).mail = b.mail := rfl
@[simp] theorem Body.setPerf_draws (p : Nat) (f : Performance) : (b.setPerf p f).draws = b.draws := rfl
@[simp] theorem Body.setSlot_hammers (n : Nat) (x : Slot) : (b.setSlot n x).hammers = b.hammers := rfl
@[simp] theorem Body.setSlot_sched (n : Nat) (x : Slot) : (b.setSlot n x).sched = b.sched := rfl
@[simp] theorem Body.setSlot_claims (n : Nat) (x : Slot) : (b.setSlot n x).claims = b.claims := rfl
@[simp] theorem Body.setSlot_players (n : Nat) (x : Slot) : (b.setSlot n x).players = b.players := rfl
@[simp] theorem Body.setSlot_slots (n : Nat) (x : Slot) :
    (b.setSlot n x).slots = b.slots.set n x := rfl
@[simp] theorem Body.setSlot_cal (n : Nat) (x : Slot) : (b.setSlot n x).cal = b.cal := rfl
@[simp] theorem Body.setSlot_con (n : Nat) (x : Slot) : (b.setSlot n x).con = b.con := rfl
@[simp] theorem Body.setSlot_bus (n : Nat) (x : Slot) : (b.setSlot n x).bus = b.bus := rfl
@[simp] theorem Body.setSlot_port (n : Nat) (x : Slot) : (b.setSlot n x).port = b.port := rfl
@[simp] theorem Body.setSlot_mail (n : Nat) (x : Slot) : (b.setSlot n x).mail = b.mail := rfl
@[simp] theorem Body.setSlot_draws (n : Nat) (x : Slot) : (b.setSlot n x).draws = b.draws := rfl
@[simp] theorem Body.setEntry_hammers (n : Nat) (x : Entry) : (b.setEntry n x).hammers = b.hammers := rfl
@[simp] theorem Body.setEntry_sched (n : Nat) (x : Entry) : (b.setEntry n x).sched = b.sched := rfl
@[simp] theorem Body.setEntry_claims (n : Nat) (x : Entry) : (b.setEntry n x).claims = b.claims := rfl
@[simp] theorem Body.setEntry_players (n : Nat) (x : Entry) : (b.setEntry n x).players = b.players := rfl
@[simp] theorem Body.setEntry_slots (n : Nat) (x : Entry) : (b.setEntry n x).slots = b.slots := rfl
@[simp] theorem Body.setEntry_cal (n : Nat) (x : Entry) :
    (b.setEntry n x).cal = { b.cal with entries := b.cal.entries.set n x } := rfl
@[simp] theorem Body.setEntry_con (n : Nat) (x : Entry) : (b.setEntry n x).con = b.con := rfl
@[simp] theorem Body.setEntry_bus (n : Nat) (x : Entry) : (b.setEntry n x).bus = b.bus := rfl
@[simp] theorem Body.setEntry_port (n : Nat) (x : Entry) : (b.setEntry n x).port = b.port := rfl
@[simp] theorem Body.setEntry_mail (n : Nat) (x : Entry) : (b.setEntry n x).mail = b.mail := rfl
@[simp] theorem Body.setEntry_draws (n : Nat) (x : Entry) : (b.setEntry n x).draws = b.draws := rfl
@[simp] theorem Body.setBoard_hammers (n : Nat) (x : Board) : (b.setBoard n x).hammers = b.hammers := rfl
@[simp] theorem Body.setBoard_sched (n : Nat) (x : Board) : (b.setBoard n x).sched = b.sched := rfl
@[simp] theorem Body.setBoard_claims (n : Nat) (x : Board) : (b.setBoard n x).claims = b.claims := rfl
@[simp] theorem Body.setBoard_players (n : Nat) (x : Board) : (b.setBoard n x).players = b.players := rfl
@[simp] theorem Body.setBoard_slots (n : Nat) (x : Board) : (b.setBoard n x).slots = b.slots := rfl
@[simp] theorem Body.setBoard_cal (n : Nat) (x : Board) : (b.setBoard n x).cal = b.cal := rfl
@[simp] theorem Body.setBoard_con (n : Nat) (x : Board) : (b.setBoard n x).con = b.con := rfl
@[simp] theorem Body.setBoard_bus (n : Nat) (x : Board) :
    (b.setBoard n x).bus = { b.bus with boards := b.bus.boards.set (n - 1) x } := rfl
@[simp] theorem Body.setBoard_port (n : Nat) (x : Board) : (b.setBoard n x).port = b.port := rfl
@[simp] theorem Body.setBoard_mail (n : Nat) (x : Board) : (b.setBoard n x).mail = b.mail := rfl
@[simp] theorem Body.setBoard_draws (n : Nat) (x : Board) : (b.setBoard n x).draws = b.draws := rfl
@[simp] theorem Body.setClaim_hammers (p : Nat) (r : ClaimRecord) : (b.setClaim p r).hammers = b.hammers := rfl
@[simp] theorem Body.setClaim_sched (p : Nat) (r : ClaimRecord) : (b.setClaim p r).sched = b.sched := rfl
@[simp] theorem Body.setClaim_claims (p : Nat) (r : ClaimRecord) :
    (b.setClaim p r).claims = { b.claims with records := b.claims.records.set p r } := rfl
@[simp] theorem Body.setClaim_players (p : Nat) (r : ClaimRecord) : (b.setClaim p r).players = b.players := rfl
@[simp] theorem Body.setClaim_slots (p : Nat) (r : ClaimRecord) : (b.setClaim p r).slots = b.slots := rfl
@[simp] theorem Body.setClaim_cal (p : Nat) (r : ClaimRecord) : (b.setClaim p r).cal = b.cal := rfl
@[simp] theorem Body.setClaim_con (p : Nat) (r : ClaimRecord) : (b.setClaim p r).con = b.con := rfl
@[simp] theorem Body.setClaim_bus (p : Nat) (r : ClaimRecord) : (b.setClaim p r).bus = b.bus := rfl
@[simp] theorem Body.setClaim_port (p : Nat) (r : ClaimRecord) : (b.setClaim p r).port = b.port := rfl
@[simp] theorem Body.setClaim_mail (p : Nat) (r : ClaimRecord) : (b.setClaim p r).mail = b.mail := rfl
@[simp] theorem Body.setClaim_draws (p : Nat) (r : ClaimRecord) : (b.setClaim p r).draws = b.draws := rfl
@[simp] theorem Body.setSched_hammers (x : Scheduler) : (b.setSched x).hammers = b.hammers := rfl
@[simp] theorem Body.setSched_sched (x : Scheduler) :
    (b.setSched x).sched = x := rfl
@[simp] theorem Body.setSched_claims (x : Scheduler) : (b.setSched x).claims = b.claims := rfl
@[simp] theorem Body.setSched_players (x : Scheduler) : (b.setSched x).players = b.players := rfl
@[simp] theorem Body.setSched_slots (x : Scheduler) : (b.setSched x).slots = b.slots := rfl
@[simp] theorem Body.setSched_cal (x : Scheduler) : (b.setSched x).cal = b.cal := rfl
@[simp] theorem Body.setSched_con (x : Scheduler) : (b.setSched x).con = b.con := rfl
@[simp] theorem Body.setSched_bus (x : Scheduler) : (b.setSched x).bus = b.bus := rfl
@[simp] theorem Body.setSched_port (x : Scheduler) : (b.setSched x).port = b.port := rfl
@[simp] theorem Body.setSched_mail (x : Scheduler) : (b.setSched x).mail = b.mail := rfl
@[simp] theorem Body.setSched_draws (x : Scheduler) : (b.setSched x).draws = b.draws := rfl
@[simp] theorem Body.setClaims_hammers (x : Claims) : (b.setClaims x).hammers = b.hammers := rfl
@[simp] theorem Body.setClaims_sched (x : Claims) : (b.setClaims x).sched = b.sched := rfl
@[simp] theorem Body.setClaims_claims (x : Claims) :
    (b.setClaims x).claims = x := rfl
@[simp] theorem Body.setClaims_players (x : Claims) : (b.setClaims x).players = b.players := rfl
@[simp] theorem Body.setClaims_slots (x : Claims) : (b.setClaims x).slots = b.slots := rfl
@[simp] theorem Body.setClaims_cal (x : Claims) : (b.setClaims x).cal = b.cal := rfl
@[simp] theorem Body.setClaims_con (x : Claims) : (b.setClaims x).con = b.con := rfl
@[simp] theorem Body.setClaims_bus (x : Claims) : (b.setClaims x).bus = b.bus := rfl
@[simp] theorem Body.setClaims_port (x : Claims) : (b.setClaims x).port = b.port := rfl
@[simp] theorem Body.setClaims_mail (x : Claims) : (b.setClaims x).mail = b.mail := rfl
@[simp] theorem Body.setClaims_draws (x : Claims) : (b.setClaims x).draws = b.draws := rfl
@[simp] theorem Body.setCon_hammers (x : Console) : (b.setCon x).hammers = b.hammers := rfl
@[simp] theorem Body.setCon_sched (x : Console) : (b.setCon x).sched = b.sched := rfl
@[simp] theorem Body.setCon_claims (x : Console) : (b.setCon x).claims = b.claims := rfl
@[simp] theorem Body.setCon_players (x : Console) : (b.setCon x).players = b.players := rfl
@[simp] theorem Body.setCon_slots (x : Console) : (b.setCon x).slots = b.slots := rfl
@[simp] theorem Body.setCon_cal (x : Console) : (b.setCon x).cal = b.cal := rfl
@[simp] theorem Body.setCon_con (x : Console) :
    (b.setCon x).con = x := rfl
@[simp] theorem Body.setCon_bus (x : Console) : (b.setCon x).bus = b.bus := rfl
@[simp] theorem Body.setCon_port (x : Console) : (b.setCon x).port = b.port := rfl
@[simp] theorem Body.setCon_mail (x : Console) : (b.setCon x).mail = b.mail := rfl
@[simp] theorem Body.setCon_draws (x : Console) : (b.setCon x).draws = b.draws := rfl
@[simp] theorem Body.setBus_hammers (x : Bus) : (b.setBus x).hammers = b.hammers := rfl
@[simp] theorem Body.setBus_sched (x : Bus) : (b.setBus x).sched = b.sched := rfl
@[simp] theorem Body.setBus_claims (x : Bus) : (b.setBus x).claims = b.claims := rfl
@[simp] theorem Body.setBus_players (x : Bus) : (b.setBus x).players = b.players := rfl
@[simp] theorem Body.setBus_slots (x : Bus) : (b.setBus x).slots = b.slots := rfl
@[simp] theorem Body.setBus_cal (x : Bus) : (b.setBus x).cal = b.cal := rfl
@[simp] theorem Body.setBus_con (x : Bus) : (b.setBus x).con = b.con := rfl
@[simp] theorem Body.setBus_bus (x : Bus) :
    (b.setBus x).bus = x := rfl
@[simp] theorem Body.setBus_port (x : Bus) : (b.setBus x).port = b.port := rfl
@[simp] theorem Body.setBus_mail (x : Bus) : (b.setBus x).mail = b.mail := rfl
@[simp] theorem Body.setBus_draws (x : Bus) : (b.setBus x).draws = b.draws := rfl
@[simp] theorem Body.setPort_hammers (x : Port) : (b.setPort x).hammers = b.hammers := rfl
@[simp] theorem Body.setPort_sched (x : Port) : (b.setPort x).sched = b.sched := rfl
@[simp] theorem Body.setPort_claims (x : Port) : (b.setPort x).claims = b.claims := rfl
@[simp] theorem Body.setPort_players (x : Port) : (b.setPort x).players = b.players := rfl
@[simp] theorem Body.setPort_slots (x : Port) : (b.setPort x).slots = b.slots := rfl
@[simp] theorem Body.setPort_cal (x : Port) : (b.setPort x).cal = b.cal := rfl
@[simp] theorem Body.setPort_con (x : Port) : (b.setPort x).con = b.con := rfl
@[simp] theorem Body.setPort_bus (x : Port) : (b.setPort x).bus = b.bus := rfl
@[simp] theorem Body.setPort_port (x : Port) :
    (b.setPort x).port = x := rfl
@[simp] theorem Body.setPort_mail (x : Port) : (b.setPort x).mail = b.mail := rfl
@[simp] theorem Body.setPort_draws (x : Port) : (b.setPort x).draws = b.draws := rfl
@[simp] theorem Body.send_hammers (m : Msg) : (b.send m).hammers = b.hammers := rfl
@[simp] theorem Body.send_sched (m : Msg) : (b.send m).sched = b.sched := rfl
@[simp] theorem Body.send_claims (m : Msg) : (b.send m).claims = b.claims := rfl
@[simp] theorem Body.send_players (m : Msg) : (b.send m).players = b.players := rfl
@[simp] theorem Body.send_slots (m : Msg) : (b.send m).slots = b.slots := rfl
@[simp] theorem Body.send_cal (m : Msg) : (b.send m).cal = b.cal := rfl
@[simp] theorem Body.send_con (m : Msg) : (b.send m).con = b.con := rfl
@[simp] theorem Body.send_bus (m : Msg) : (b.send m).bus = b.bus := rfl
@[simp] theorem Body.send_port (m : Msg) : (b.send m).port = b.port := rfl
@[simp] theorem Body.send_mail (m : Msg) :
    (b.send m).mail = b.mail ++ [m] := rfl
@[simp] theorem Body.send_draws (m : Msg) : (b.send m).draws = b.draws := rfl
@[simp] theorem Body.sendFirst_hammers (m : Msg) : (b.sendFirst m).hammers = b.hammers := rfl
@[simp] theorem Body.sendFirst_sched (m : Msg) : (b.sendFirst m).sched = b.sched := rfl
@[simp] theorem Body.sendFirst_claims (m : Msg) : (b.sendFirst m).claims = b.claims := rfl
@[simp] theorem Body.sendFirst_players (m : Msg) : (b.sendFirst m).players = b.players := rfl
@[simp] theorem Body.sendFirst_slots (m : Msg) : (b.sendFirst m).slots = b.slots := rfl
@[simp] theorem Body.sendFirst_cal (m : Msg) : (b.sendFirst m).cal = b.cal := rfl
@[simp] theorem Body.sendFirst_con (m : Msg) : (b.sendFirst m).con = b.con := rfl
@[simp] theorem Body.sendFirst_bus (m : Msg) : (b.sendFirst m).bus = b.bus := rfl
@[simp] theorem Body.sendFirst_port (m : Msg) : (b.sendFirst m).port = b.port := rfl
@[simp] theorem Body.sendFirst_mail (m : Msg) :
    (b.sendFirst m).mail = m :: b.mail := rfl
@[simp] theorem Body.sendFirst_draws (m : Msg) : (b.sendFirst m).draws = b.draws := rfl
@[simp] theorem Body.raise_hammers (n : Notice) : (b.raise n).hammers = b.hammers := rfl
@[simp] theorem Body.raise_sched (n : Notice) : (b.raise n).sched = b.sched := rfl
@[simp] theorem Body.raise_claims (n : Notice) : (b.raise n).claims = b.claims := rfl
@[simp] theorem Body.raise_players (n : Notice) : (b.raise n).players = b.players := rfl
@[simp] theorem Body.raise_slots (n : Notice) : (b.raise n).slots = b.slots := rfl
@[simp] theorem Body.raise_cal (n : Notice) : (b.raise n).cal = b.cal := rfl
@[simp] theorem Body.raise_con (n : Notice) : (b.raise n).con = b.con := rfl
@[simp] theorem Body.raise_bus (n : Notice) : (b.raise n).bus = b.bus := rfl
@[simp] theorem Body.raise_port (n : Notice) :
    (b.raise n).port = b.port.raise n := rfl
@[simp] theorem Body.raise_mail (n : Notice) : (b.raise n).mail = b.mail := rfl
@[simp] theorem Body.raise_draws (n : Notice) : (b.raise n).draws = b.draws := rfl

/-! ### Events handed on in a free order -/

/-- A free order is an order of the same events. -/
theorem freeOrder_perm {α : Type} (n : Nat) (l : List α) (d : Nat) : (freeOrder n l d).1.Perm l := by
  induction n generalizing l d with
  | zero => exact List.Perm.refl _
  | succ n ih =>
    match l with
    | [] | [_] => exact List.Perm.refl _
    | x :: y :: l =>
      have hi : Config.freeChoice d % (x :: y :: l).length < (x :: y :: l).length :=
        Nat.mod_lt _ (Nat.succ_pos _)
      simp only [freeOrder]
      rw [List.getD_eq_getElem _ _ hi]
      exact ((ih _ _).cons _).trans (List.getElem_cons_eraseIdx_perm hi)

/-- Events handed on in a free order stand before the others, each once; nothing else changes but the count
of draws. -/
theorem Body.sendFree_spec (ms : List Msg) : ∃ (l : List Msg) (d : Nat), l.Perm ms ∧
    b.sendFree ms = { b with mail := l ++ b.mail, draws := d } :=
  ⟨_, _, freeOrder_perm _ _ _, rfl⟩

end Sys2Proof.Machine
end

