-- ==== Sys2Proof/Laws/Keeps.lean ====
section
/-! SUPPORT. What every operation that blocks use on one another keeps: what never changes (`Body.still`),
the accounts and the order of the queue, and the bounds of the queue, the FIFO and the send list. One
lemma for each operation; later proofs cite these and unfold none of them. -/

namespace Sys2Proof.Machine

set_option Elab.async false

/-- What `b` has kept of `a`. -/
structure Body.Keeps (a b : Body) : Prop where
  still    : b.still = a.still
  accounts : a.Accounts → b.Accounts
  ordered  : a.QueueOrdered → b.QueueOrdered
  fits     : a.QueueFits → b.QueueFits
  fifo     : b.con.fifo.length ≤ a.con.fifo.length
  orders   : a.OneOrderEach → b.OneOrderEach
  turn     : a.OrdersInTurn → b.OrdersInTurn
  serves   : a.LineServesOrders → b.LineServesOrders

theorem Body.Keeps.refl (a : Body) : Body.Keeps a a := 
  ⟨rfl, id, id, id, Nat.le_refl _, id, id, id⟩

/-- The parts of a body that `Keeps` speaks of. -/
theorem Body.Keeps.of {a b c : Body} (h : Body.Keeps a b) (h1 : c.still = b.still)
    (h2 : c.sched = b.sched) (h3 : c.con.fifo.length ≤ b.con.fifo.length)
    (h4 : c.bus = b.bus) : Body.Keeps a c where
  still := h1.trans h.still
  accounts x := by unfold Body.Accounts; rw [h2]; exact h.accounts x
  ordered x := by unfold Body.QueueOrdered; rw [h2]; exact h.ordered x
  fits x := by
    unfold Body.QueueFits Body.tuneTotal Body.queuedCount Body.quota
    rw [h2]
    exact h.fits x
  fifo := Nat.le_trans h3 h.fifo
  orders x := by unfold Body.OneOrderEach; rw [h4]; exact h.orders x
  turn x := by unfold Body.OrdersInTurn; rw [h4]; exact h.turn x
  serves x := by unfold Body.LineServesOrders; rw [h4]; exact h.serves x

variable {a b : Body}

/-! ### Updates -/

theorem keeps_setHammer (i : Nat) (x : Hammer) (h : Body.Keeps a b) : Body.Keeps a (b.setHammer i x) :=
  h.of rfl rfl (Nat.le_refl _) rfl
theorem keeps_setPlayer (i : Nat) (x : Player) (h : Body.Keeps a b) : Body.Keeps a (b.setPlayer i x) :=
  h.of rfl rfl (Nat.le_refl _) rfl
theorem keeps_modPlayer (i : Nat) (f : Player → Player) (h : Body.Keeps a b) :
    Body.Keeps a (b.modPlayer i f) := h.of rfl rfl (Nat.le_refl _) rfl
theorem keeps_setPerf (i : Nat) (f : Performance) (h : Body.Keeps a b) : Body.Keeps a (b.setPerf i f) :=
  h.of rfl rfl (Nat.le_refl _) rfl
theorem keeps_setEntry (i : Nat) (x : Entry) (h : Body.Keeps a b) : Body.Keeps a (b.setEntry i x) :=
  h.of rfl rfl (Nat.le_refl _) rfl
theorem keeps_setClaim (i : Nat) (x : ClaimRecord) (h : Body.Keeps a b) : Body.Keeps a (b.setClaim i x) :=
  h.of rfl rfl (Nat.le_refl _) rfl
theorem keeps_setClaims (x : Claims) (h : Body.Keeps a b) : Body.Keeps a (b.setClaims x) :=
  h.of rfl rfl (Nat.le_refl _) rfl
theorem keeps_send (m : Msg) (h : Body.Keeps a b) : Body.Keeps a (b.send m) :=
  h.of rfl rfl (Nat.le_refl _) rfl
theorem keeps_sendFirst (m : Msg) (h : Body.Keeps a b) : Body.Keeps a (b.sendFirst m) :=
  h.of rfl rfl (Nat.le_refl _) rfl
theorem keeps_mail (l : List Msg) (h : Body.Keeps a b) : Body.Keeps a { b with mail := l } :=
  h.of rfl rfl (Nat.le_refl _) rfl
theorem keeps_sendFree (ms : List Msg) (h : Body.Keeps a b) : Body.Keeps a (b.sendFree ms) :=
  h.of rfl rfl (Nat.le_refl _) rfl
theorem keeps_raise (n : Notice) (h : Body.Keeps a b) : Body.Keeps a (b.raise n) :=
  h.of rfl rfl (Nat.le_refl _) rfl
theorem keeps_entries (l : List Entry) (h : Body.Keeps a b) :
    Body.Keeps a { b with cal := { b.cal with entries := l } } := h.of rfl rfl (Nat.le_refl _) rfl

/-- A console that differs in what the cascade may change. -/
theorem keeps_setCon (c : Console) (h : Body.Keeps a b) (h1 : c.settings = b.con.settings)
    (h2 : c.lastByte = b.con.lastByte) (h3 : c.rx = b.con.rx) (h4 : c.strayRun = b.con.strayRun)
    (h5 : c.events = b.con.events) (h6 : c.malformed = b.con.malformed)
    (h7 : c.overrun = b.con.overrun) (h8 : c.linkLost = b.con.linkLost)
    (h9 : c.fifo.length ≤ b.con.fifo.length) : Body.Keeps a (b.setCon c) :=
  h.of (by simp [Body.still, h1, h2, h3, h4, h5, h6, h7, h8]) rfl h9 rfl

/-- A bus that differs in what the cascade may change. -/
theorem keeps_setBus (u : Bus) (h : Body.Keeps a b) (h1 : u.access = b.bus.access)
    (h2 : u.boards = b.bus.boards) (h3 : u.allowance = b.bus.allowance)
    (h4 : u.nextRound = b.bus.nextRound) (h5 : u.noise = b.bus.noise)
    (h6 : b.OneOrderEach → (b.setBus u).OneOrderEach) (h7 : b.OrdersInTurn → (b.setBus u).OrdersInTurn)
    (h8 : b.LineServesOrders → (b.setBus u).LineServesOrders) : Body.Keeps a (b.setBus u) where
  still := by rw [← h.still]; simp [Body.still, h1, h2, h3, h4, h5]
  accounts := h.accounts
  ordered := h.ordered
  fits := h.fits
  fifo := h.fifo
  orders x := h6 (h.orders x)
  turn x := h7 (h.turn x)
  serves x := h8 (h.serves x)

theorem map_set_same {α β : Type} (f : α → β) (l : List α) (d x : α) (n : Nat)
    (h : f x = f (l.getD n d)) : (l.set n x).map f = l.map f := by
  apply List.ext_getElem (by simp)
  intro k h1 h2
  simp only [List.length_map, List.length_set] at h1
  simp only [List.getElem_map, List.getElem_set]
  split
  · rename_i hk
    subst hk
    rw [h, List.getD_eq_getElem _ _ h1]
  · rfl

theorem keeps_users (n u : Nat) (h : Body.Keeps a b) :
    Body.Keeps a (b.setSlot n { b.slot n with users := u }) := by
  refine h.of ?_ rfl (Nat.le_refl _) rfl
  simp only [Body.still, Body.setSlot_slots, Body.setSlot_port, Body.setSlot_con, Body.setSlot_cal,
    Body.setSlot_sched, Body.setSlot_bus]
  congr 1
  exact map_set_same (fun x : Slot => { x with users := 0 }) b.slots Slot.emptySlot
    { b.slot n with users := u } n rfl

theorem keeps_foldl {β : Type} (f : Body → β → Body) (l : List β)
    (hf : ∀ b x, Body.Keeps a b → Body.Keeps a (f b x)) (h : Body.Keeps a b) :
    Body.Keeps a (l.foldl f b) := by
  induction l generalizing b with
  | nil => exact h
  | cons x xs ih => exact ih (hf b x h)

theorem keeps_foldl_fst {β γ : Type} (f : Body × γ → β → Body × γ) (l : List β) (r : Body × γ)
    (hf : ∀ r x, Body.Keeps a r.1 → Body.Keeps a (f r x).1) (h : Body.Keeps a r.1) :
    Body.Keeps a (l.foldl f r).1 := by
  induction l generalizing r with
  | nil => exact h
  | cons x xs ih => exact ih _ (hf r x h)

theorem keeps_ite {c d : Body} {p : Prop} [Decidable p] (h1 : Body.Keeps a c) (h2 : Body.Keeps a d) :
    Body.Keeps a (if p then c else d) := by split <;> assumption

/-! ### The bus -/

theorem keeps_enterIdle (i : Nat) (h : Body.Keeps a b) : Body.Keeps a (b.enterIdle i) :=
  keeps_sendFirst _ (keeps_setHammer _ _ h)

theorem keeps_orderHammer (i : Nat) (x : Band) (h : Body.Keeps a b) :
    Body.Keeps a (b.orderHammer i x) := keeps_setHammer _ _ h

theorem keeps_cancelHammer (i : Nat) (h : Body.Keeps a b) : Body.Keeps a (b.cancelHammer i) := by
  unfold Body.cancelHammer
  exact keeps_ite (keeps_enterIdle _ h) h

/-- R182: the first order starts; nothing else can put an ACTUATE frame on the line. -/
theorem keeps_startActuate (now : Nat) (h : Body.Keeps a b) :
    Body.Keeps a (b.setBus (b.bus.startActuate now)) := by
  unfold Bus.startActuate
  split
  · exact h
  · rename_i o rest hl
    refine keeps_setBus _ h rfl rfl rfl rfl rfl ?_ ?_ ?_
    · intro hn
      unfold Body.OneOrderEach at hn ⊢
      simpa [hl] using hn
    · intro hn
      unfold Body.OrdersInTurn at hn ⊢
      rw [hl] at hn
      obtain ⟨h1, h2⟩ := List.pairwise_cons.mp hn
      exact List.pairwise_cons.mpr ⟨fun x hx => h1 x hx, h2⟩
    · rintro ⟨h1, h2⟩
      refine ⟨fun ha => ?_, fun bell ends hb => ?_⟩
      · have := h1 ha
        rw [hl] at this
        cases this
      · simp only [Body.setBus_bus, Line.actuate.injEq] at hb
        exact ⟨_, List.mem_cons_self, hb.1⟩

/-- R181: a POLL starts. -/
theorem keeps_startPoll (now board : Nat) (h : Body.Keeps a b) :
    Body.Keeps a (b.setBus (b.bus.startPoll now board)) :=
  keeps_setBus _ h rfl rfl rfl rfl rfl id id fun k => ⟨k.1, fun _ _ hb => by cases hb⟩

theorem keeps_chooseFrame (now : Nat) (h : Body.Keeps a b) : Body.Keeps a (b.chooseFrame now) := by
  unfold Body.chooseFrame
  split
  · split
    · split
      · exact keeps_startPoll _ _ h
      · exact keeps_startActuate now h
    · exact keeps_startActuate now h
  · exact h

/-- R179: a frame that is not cut off after a cancellation was not before, and is another bell's. -/
theorem Line.cutOff_uncut {l : Line} {x bell ends : Nat} (h : l.cutOff x = .actuate bell ends false) :
    l = .actuate bell ends false ∧ bell ≠ x := by
  unfold Line.cutOff at h
  split at h
  · split at h
    · cases h
    · rename_i hne
      cases h
      exact ⟨rfl, hne⟩
  · cases h
  · cases h

/-- R179: an order leaves the list, and its frame, if it is on the line, is cut off. -/
theorem serves_without (u : Bus) (bell : Nat) {b : Body} (hl : u.sendList = b.bus.sendList)
    (ha : u.access = b.bus.access) (hline : u.line = b.bus.line) (h : b.LineServesOrders) :
    (b.setBus { u with sendList := u.sendList.filter (fun o => o.bell != bell),
                       line := u.line.cutOff bell }).LineServesOrders := by
  obtain ⟨h1, h2⟩ := h
  refine ⟨fun k => ?_, fun x ends hx => ?_⟩
  · simp only [Body.setBus_bus, hl, h1 (ha ▸ k), List.filter_nil]
  · simp only [Body.setBus_bus, hline] at hx
    obtain ⟨hb, hne⟩ := Line.cutOff_uncut hx
    obtain ⟨o, ho, hox⟩ := h2 x ends hb
    exact ⟨o, List.mem_filter.mpr ⟨by simpa [hl] using ho, by simpa [hox] using hne⟩, hox⟩

theorem keeps_cancelOrder (bell : Nat) (cause : CancelCause) (h : Body.Keeps a b) :
    Body.Keeps a (b.cancelOrder bell cause) := by
  unfold Body.cancelOrder
  split
  · exact h
  · have hs : (b.bus.countCancel cause).sendList = b.bus.sendList := by cases cause <;> rfl
    refine keeps_cancelHammer _ (keeps_setBus _ h ?_ ?_ ?_ ?_ ?_ ?_ ?_ ?_)
    · cases cause <;> rfl
    · cases cause <;> rfl
    · cases cause <;> rfl
    · cases cause <;> rfl
    · cases cause <;> rfl
    · intro hn
      unfold Body.OneOrderEach at hn ⊢
      simp only [Body.setBus_bus, hs]
      exact List.Nodup.sublist (List.Sublist.map _ List.filter_sublist) hn
    · intro hn
      unfold Body.OrdersInTurn at hn ⊢
      simp only [Body.setBus_bus, hs]
      exact hn.sublist List.filter_sublist
    · exact serves_without _ bell hs (by cases cause <;> rfl) (by cases cause <;> rfl)

theorem insertOrder_perm (o : Order) (l : List Order) : (insertOrder o l).Perm (o :: l) := by
  induction l with
  | nil => exact List.Perm.refl _
  | cons x rest ih =>
    unfold insertOrder
    split
    · exact (ih.cons x).trans (List.Perm.swap o x rest)
    · exact List.Perm.refl _

theorem Order.Before.trans {x y z : Order} (h : x.Before y) (k : y.Before z) : x.Before z := by
  unfold Order.Before at *
  omega

theorem Order.Before.total {x y : Order} (h : ¬ x.Before y) : y.Before x := by
  unfold Order.Before at *
  omega

/-- R178: the list stays in order. -/
theorem insertOrder_inTurn (o : Order) (l : List Order) (h : l.Pairwise Order.Before) :
    (insertOrder o l).Pairwise Order.Before := by
  induction l with
  | nil => exact List.pairwise_singleton _ _
  | cons x rest ih =>
    obtain ⟨h1, h2⟩ := List.pairwise_cons.mp h
    unfold insertOrder
    split
    · rename_i hx
      refine List.pairwise_cons.mpr ⟨fun y hy => ?_, ih h2⟩
      rcases List.mem_cons.mp ((insertOrder_perm o rest).mem_iff.mp hy) with rfl | hy
      · exact hx
      · exact h1 y hy
    · rename_i hx
      have ho : o.Before x := Order.Before.total hx
      refine List.pairwise_cons.mpr ⟨fun y hy => ?_, h⟩
      rcases List.mem_cons.mp hy with rfl | hy
      · exact ho
      · exact ho.trans (h1 y hy)

/-- R180: what a cancelled order for the only bell in the list leaves, with a line that carries no frame of
an order. -/
theorem cancelOrder_only (o : Order) (cause : CancelCause) (h : b.bus.sendList = [o])
    (hline : ∀ bell ends, b.bus.line ≠ .actuate bell ends false) :
    (b.cancelOrder o.bell cause).LineServesOrders := by
  have ho : b.orderOf o.bell = some o := by simp [Body.orderOf, h]
  have hs : (b.bus.countCancel cause).sendList = [o] := by cases cause <;> exact h
  have hl : (b.bus.countCancel cause).line = b.bus.line := by cases cause <;> rfl
  have hc : ∀ (c : Body) (i : Nat), (c.cancelHammer i).bus = c.bus := by
    intro c i
    unfold Body.cancelHammer
    split <;> rfl
  unfold Body.cancelOrder
  rw [ho]
  refine ⟨fun _ => ?_, fun bell ends hb => ?_⟩
  · simp [hc, hs]
  · have hx : b.bus.line.cutOff o.bell = .actuate bell ends false := by simpa [hc, hl] using hb
    exact absurd (Line.cutOff_uncut hx).1 (hline bell ends)

/-- R178: an order is taken for a bell that has none. -/
theorem keeps_takeOrder (now : Nat) (o : Order) (h : Body.Keeps a b)
    (hb : b.orderOf o.bell = none) : Body.Keeps a (b.takeOrder now o) := by
  have hp := insertOrder_perm o b.bus.sendList
  unfold Body.takeOrder
  generalize hu : b.setBus { b.bus with sendList := insertOrder o b.bus.sendList } = u
  have list : u.bus.sendList = insertOrder o b.bus.sendList := by rw [← hu]; rfl
  have line : u.bus.line = b.bus.line := by rw [← hu]; rfl
  have access : u.bus.access = b.bus.access := by rw [← hu]; rfl
  have orders : b.OneOrderEach → u.OneOrderEach := by
    intro hn
    unfold Body.OneOrderEach
    rw [list]
    refine (hp.map (·.bell)).nodup_iff.mpr ?_
    simp only [List.map_cons, List.nodup_cons]
    refine ⟨?_, hn⟩
    intro hm
    obtain ⟨x, hx, hxb⟩ := List.mem_map.mp hm
    unfold Body.orderOf at hb
    have := List.find?_eq_none.mp hb x hx
    simp [hxb] at this
  have turn : b.OrdersInTurn → u.OrdersInTurn := by
    intro hn
    unfold Body.OrdersInTurn
    rw [list]
    exact insertOrder_inTurn o _ hn
  by_cases ha : u.bus.access = true
  · -- the order is cancelled in the event of its taking
    rw [if_pos ha]
    have key := keeps_cancelOrder (a := u) o.bell .access (Body.Keeps.refl u)
    have still : u.still = b.still := by rw [← hu]; rfl
    have rest : u.sched = b.sched ∧ u.con = b.con := by rw [← hu]; exact ⟨rfl, rfl⟩
    have accounts : b.Accounts → u.Accounts := by unfold Body.Accounts; rw [rest.1]; exact id
    have ordered : b.QueueOrdered → u.QueueOrdered := by unfold Body.QueueOrdered; rw [rest.1]; exact id
    have fits : b.QueueFits → u.QueueFits := by
      unfold Body.QueueFits Body.tuneTotal Body.queuedCount Body.quota
      rw [rest.1]
      exact id
    refine ⟨key.still.trans (still.trans h.still), fun x => key.accounts (accounts (h.accounts x)),
      fun x => key.ordered (ordered (h.ordered x)), fun x => key.fits (fits (h.fits x)),
      Nat.le_trans key.fifo (rest.2 ▸ h.fifo), fun x => key.orders (orders (h.orders x)),
      fun x => key.turn (turn (h.turn x)), fun x => ?_⟩
    obtain ⟨h1, h2⟩ := h.serves x
    have none := h1 (access ▸ ha)
    refine cancelOrder_only o .access (by rw [list, none]; rfl) fun bell ends hl => ?_
    obtain ⟨y, hy, _⟩ := h2 bell ends (line ▸ hl)
    rw [none] at hy
    cases hy
  · rw [if_neg ha]
    refine keeps_chooseFrame _ ?_
    rw [← hu]
    refine keeps_setBus _ h rfl rfl rfl rfl rfl (hu ▸ orders) (hu ▸ turn) fun hs => ?_
    rw [hu]
    refine ⟨fun k => absurd k ha, fun bell ends hl => ?_⟩
    obtain ⟨x, hx, hxb⟩ := hs.2 bell ends (line ▸ hl)
    exact ⟨x, by rw [list]; exact hp.mem_iff.mpr (List.mem_cons_of_mem _ hx), hxb⟩

/-! ### The queue -/

/-- Leaving the queue: the strike is counted by the way it left. -/
theorem countWay_accounts (c : Scheduler) (way : Way) (i : Nat) (hi : i < c.queue.length)
    (h : c.admitted = c.fired + c.withdrawn + c.discardedLate + c.discardedBlocked +
      c.discardedUnavailable + BitVec.ofNat 32 c.queue.length) :
    (c.countWay way).admitted = (c.countWay way).fired + (c.countWay way).withdrawn +
      (c.countWay way).discardedLate + (c.countWay way).discardedBlocked +
      (c.countWay way).discardedUnavailable + BitVec.ofNat 32 (c.queue.eraseIdx i).length := by
  have hl : c.queue.length = (c.queue.eraseIdx i).length + 1 := by
    rw [List.length_eraseIdx_of_lt hi]; omega
  rw [hl, BitVec.ofNat_add] at h
  cases way <;> simp only [Scheduler.countWay] <;> rw [h] <;> simp <;> ring

theorem countWay_queue (c : Scheduler) (way : Way) : (c.countWay way).queue = c.queue := by
  cases way <;> rfl

theorem countWay_settings (c : Scheduler) (way : Way) :
    (c.countWay way).quotas = c.quotas ∧ (c.countWay way).horizon = c.horizon ∧
      (c.countWay way).lateLimit = c.lateLimit ∧ (c.countWay way).access = c.access := by
  cases way <;> exact ⟨rfl, rfl, rfl, rfl⟩

/-- R58: counts that fall keep the three limits. -/
theorem Body.QueueFits.of_le {b c : Body} (h : b.QueueFits) (hq : c.sched.quotas = b.sched.quotas)
    (hl : c.sched.queue.length ≤ b.sched.queue.length) (hc : ∀ p, c.queuedCount p ≤ b.queuedCount p) :
    c.QueueFits := by
  obtain ⟨h1, h2, h3⟩ := h
  refine ⟨Nat.le_trans hl h1, Nat.le_trans (List.sum_le_sum fun i _ => hc (i + 1)) h2, fun p p1 p7 => ?_⟩
  unfold Body.quota
  rw [hq]
  exact Nat.le_trans (hc p) (h3 p p1 p7)

theorem keeps_erase (position : Nat) (way : Way) (h : Body.Keeps a b)
    (hp : position < b.sched.queue.length) :
    Body.Keeps a (b.setSched { b.sched.countWay way with
      queue := (b.sched.countWay way).queue.eraseIdx position }) where
  still := by
    rw [← h.still]
    obtain ⟨h1, h2, h3, h4⟩ := countWay_settings b.sched way
    simp [Body.still, h1, h2, h3, h4]
  accounts x := by
    have := countWay_accounts b.sched way position hp (h.accounts x)
    simpa [Body.Accounts, countWay_queue] using this
  ordered x := by
    have := h.ordered x
    unfold Body.QueueOrdered at this ⊢
    simp only [Body.setSched_sched, countWay_queue]
    exact this.sublist (List.eraseIdx_sublist _ _)
  fits x := by
    refine (h.fits x).of_le (countWay_settings b.sched way).1 ?_ fun p => ?_
    · simp only [Body.setSched_sched, countWay_queue]
      exact (List.eraseIdx_sublist _ _).length_le
    · simp only [Body.queuedCount, Body.setSched_sched, countWay_queue]
      exact (List.eraseIdx_sublist _ _).countP_le
  fifo := h.fifo
  orders := h.orders
  turn := h.turn
  serves := h.serves

theorem keeps_removeAt (position : Nat) (way : Way) (h : Body.Keeps a b) :
    Body.Keeps a (b.removeAt position way) := by
  unfold Body.removeAt
  split
  · exact h
  · rename_i k hk
    have hp : position < b.sched.queue.length := (List.getElem?_eq_some_iff.mp hk).1
    refine keeps_send _ ?_
    split
    · exact keeps_send _ (keeps_erase position way h hp)
    · exact keeps_erase position way h hp

theorem keeps_removeWhere (way : Way) (cond : Strike → Bool) (n : Nat) (h : Body.Keeps a b) :
    Body.Keeps a (Body.removeWhere way cond n b) := by
  induction n generalizing b with
  | zero => exact h
  | succ n ih =>
    unfold Body.removeWhere
    split
    · exact h
    · exact ih (keeps_removeAt _ _ h)

theorem keeps_removeAll (way : Way) (cond : Strike → Bool) (h : Body.Keeps a b) :
    Body.Keeps a (b.removeAll way cond) := keeps_removeWhere way cond _ h

theorem keeps_withdrawPlayer (p : Nat) (h : Body.Keeps a b) : Body.Keeps a (b.withdrawPlayer p) :=
  keeps_removeAll _ _ h

theorem keeps_withdrawOnBell (p i : Nat) (h : Body.Keeps a b) :
    Body.Keeps a (b.withdrawOnBell p i) := keeps_removeAll _ _ h

theorem keeps_withdrawTest (i : Nat) (h : Body.Keeps a b) : Body.Keeps a (b.withdrawTest i) :=
  keeps_removeAll _ _ h

theorem removeAt_bus (position : Nat) (way : Way) : (b.removeAt position way).bus = b.bus := by
  unfold Body.removeAt
  split
  · rfl
  · split <;> rfl

theorem keeps_handOff (e : Env) (position : Nat) (h : Body.Keeps a b)
    (hb : ∀ k, b.sched.queue[position]? = some k → b.orderOf k.bell = none) :
    Body.Keeps a (b.handOff e position) := by
  unfold Body.handOff
  split
  · exact h
  · rename_i k hk
    refine keeps_takeOrder _ _ (keeps_orderHammer _ _ (keeps_removeAt _ _ h)) ?_
    have := hb k hk
    unfold Body.orderOf at this ⊢
    simpa [Body.orderHammer, removeAt_bus] using this

theorem orderOf_of_free {bell : Nat} (h : b.hammerFreeFor bell = true) : b.orderOf bell = none := by
  unfold Body.hammerFreeFor at h
  simp only [Bool.and_eq_true, Option.isNone_iff_eq_none] at h
  exact h.2

theorem keeps_dispatchAt (e : Env) (position : Nat) (h : Body.Keeps a b) :
    Body.Keeps a (b.dispatchAt e position) := by
  unfold Body.dispatchAt
  split
  · exact h
  · rename_i k hk
    split
    · exact keeps_removeAt _ _ h
    · split
      · rename_i hf
        simp only [Bool.and_eq_true] at hf
        refine keeps_handOff e position h ?_
        intro k' hk'
        rw [hk] at hk'
        cases hk'
        exact orderOf_of_free hf.1
      · exact h

theorem keeps_takeHammerFree (e : Env) (bell : Nat) (h : Body.Keeps a b) :
    Body.Keeps a (b.takeHammerFree e bell) := by
  unfold Body.takeHammerFree
  split
  · exact h
  · rename_i i hi
    split
    · rename_i hf
      simp only [Bool.and_eq_true] at hf
      refine keeps_handOff e i h ?_
      intro k hk
      obtain ⟨hlt, hq, _⟩ := List.findIdx?_eq_some_iff_getElem.mp hi
      have hke := (List.getElem?_eq_some_iff.mp hk).2
      rw [hke] at hq
      simp only [Bool.and_eq_true, beq_iff_eq] at hq
      rw [hq.1]
      exact orderOf_of_free hf.2
    · exact h

theorem insertStrike_perm (k : Strike) (l : List Strike) : (insertStrike k l).Perm (k :: l) := by
  induction l with
  | nil => exact List.Perm.refl _
  | cons x rest ih =>
    unfold insertStrike
    split
    · exact (ih.cons x).trans (List.Perm.swap k x rest)
    · exact List.Perm.refl _

theorem insertStrike_ordered (k : Strike) (l : List Strike)
    (h : l.Pairwise fun x y => x.fire ≤ y.fire) :
    (insertStrike k l).Pairwise fun x y => x.fire ≤ y.fire := by
  induction l with
  | nil => simp [insertStrike]
  | cons x rest ih =>
    obtain ⟨h1, h2⟩ := List.pairwise_cons.mp h
    unfold insertStrike
    split
    · rename_i hx
      refine List.pairwise_cons.mpr ⟨?_, ih h2⟩
      intro y hy
      rcases List.mem_cons.mp ((insertStrike_perm k rest).mem_iff.mp hy) with rfl | hy
      · exact hx
      · exact h1 y hy
    · rename_i hx
      refine List.pairwise_cons.mpr ⟨?_, h⟩
      intro y hy
      rcases List.mem_cons.mp hy with rfl | hy
      · omega
      · have := h1 y hy; omega

/-- A player is one of players 1 to 7 at most once. -/
theorem mem_tunePlayers (p : Nat) :
    ((List.range 7).map fun i => if p = i + 1 then 1 else 0).sum = if 1 ≤ p ∧ p ≤ 7 then 1 else 0 := by
  match p with
  | 0 | 1 | 2 | 3 | 4 | 5 | 6 | 7 => rfl
  | n + 8 => simp [List.range, List.range.loop]

/-- R58, R65: a strike that finds room keeps the three limits. -/
theorem fits_insertStrike (k : Strike) (n : Counter) (h : b.QueueFits) (hr : b.hasRoom k.player = true) :
    (b.setSched { b.sched with queue := insertStrike k b.sched.queue, admitted := n }).QueueFits := by
  obtain ⟨h1, h2, h3⟩ := h
  have hp := insertStrike_perm k b.sched.queue
  have hc : ∀ p, (b.setSched { b.sched with
      queue := insertStrike k b.sched.queue, admitted := n }).queuedCount p =
      b.queuedCount p + if k.player = some p then 1 else 0 := fun p => by
    simp only [Body.queuedCount, Body.setSched_sched, hp.countP_eq, List.countP_cons, beq_iff_eq]
  unfold Body.hasRoom Body.occupancy at hr
  simp only [Bool.and_eq_true, decide_eq_true_eq] at hr
  refine ⟨?_, ?_, fun p p1 p7 => ?_⟩
  · simp only [Body.setSched_sched, hp.length_eq, List.length_cons]
    omega
  · have ht : ((List.range 7).map fun i => b.queuedCount (i + 1)).sum = b.tuneTotal := rfl
    unfold Body.tuneTotal
    simp only [hc, List.sum_map_add, ht]
    cases hk : k.player with
    | none => simpa using h2
    | some p =>
      simp only [hk, Bool.or_eq_true, beq_iff_eq, Bool.and_eq_true, decide_eq_true_eq] at hr
      simp only [Option.some.injEq, mem_tunePlayers p]
      split <;> omega
  · rw [hc]
    show _ ≤ b.quota p
    have := h3 p p1 p7
    split
    · rename_i hk
      simp only [hk, Bool.or_eq_true, beq_iff_eq, Bool.and_eq_true, decide_eq_true_eq] at hr
      omega
    · omega

/-- R66: an insertion where there is room. -/
theorem keeps_insertStrike (e : Env) (k : Strike) (h : Body.Keeps a b)
    (hr : b.hasRoom k.player = true) : Body.Keeps a (b.insertStrike e k) := by
  unfold Body.insertStrike
  have hl : (insertStrike k b.sched.queue).length = b.sched.queue.length + 1 := by
    simpa using (insertStrike_perm k b.sched.queue).length_eq
  have key : Body.Keeps a (b.setSched { b.sched with
      queue := insertStrike k b.sched.queue, admitted := b.sched.admitted + 1 }) :=
    { still := by rw [← h.still]; simp [Body.still]
      accounts := fun x => by
        have := h.accounts x
        unfold Body.Accounts at this ⊢
        simp only [Body.setSched_sched, hl, BitVec.ofNat_add]
        rw [this]
        simp
        ring
      ordered := fun x => insertStrike_ordered k _ (h.ordered x)
      fits := fun x => fits_insertStrike k _ (h.fits x) hr
      fifo := h.fifo
      orders := h.orders
      turn := h.turn
      serves := h.serves }
  refine keeps_ite ?_ key
  split
  · exact keeps_dispatchAt _ _ key
  · exact key

theorem keeps_admit (e : Env) (r : Request) (h : Body.Keeps a b) :
    Body.Keeps a (b.decideAdmission e r).1 := by
  unfold Body.decideAdmission
  simp only
  split
  · exact h
  · split
    · exact h
    · split
      · exact h
      · split
        · exact keeps_raise _ h
        · rename_i hr
          refine keeps_insertStrike _ _ h ?_
          simpa using hr

/-! ### Lamps -/

theorem keeps_recomputeLamps (e : Env) (f : Nat → Bool) (h : Body.Keeps a b) :
    Body.Keeps a (b.recomputeLamps e f) := by
  unfold Body.recomputeLamps
  exact keeps_ite h (keeps_setCon _ h rfl rfl rfl rfl rfl rfl rfl rfl (Nat.le_refl _))

theorem keeps_lampsOfBell (e : Env) (bell : Nat) (h : Body.Keeps a b) :
    Body.Keeps a (b.lampsOfBell e bell) := keeps_recomputeLamps e _ h

theorem keeps_availabilityEvent (e : Env) (bell : Nat) (up : Bool) (h : Body.Keeps a b) :
    Body.Keeps a (b.availabilityEvent e bell up) :=
  keeps_lampsOfBell e bell (keeps_ite h (keeps_cancelOrder _ _ (keeps_removeAll _ _ h)))

/-! ### Claims and players -/

theorem keeps_leavePerformance (p : Nat) (fate : Fate) (h : Body.Keeps a b) :
    Body.Keeps a (b.leavePerformance p fate) := by
  unfold Body.leavePerformance
  simp only
  split
  · exact keeps_modPlayer _ _ h
  · exact keeps_users _ _ (keeps_modPlayer _ _ h)

theorem keeps_announceEnd (p : Nat) (fate : Fate) (h : Body.Keeps a b) :
    Body.Keeps a (b.announceEnd p fate) := by
  unfold Body.announceEnd
  have h1 := keeps_ite (p := (b.player p).noticeOnEnd = true) (keeps_raise .perfEnd h) h
  refine keeps_ite (p := p = 0) (keeps_send _ ?_) ?_ <;> split
  · exact keeps_send _ h1
  · exact h1
  · exact keeps_send _ h1
  · exact h1

theorem keeps_joinWaiting (p bell : Nat) (h : Body.Keeps a b) : Body.Keeps a (b.joinWaiting p bell) :=
  keeps_setClaims _ h

theorem keeps_clearClaim (p : Nat) (h : Body.Keeps a b) : Body.Keeps a (b.clearClaim p).1 := by
  unfold Body.clearClaim
  simp only
  exact keeps_ite (keeps_foldl _ _ (fun _ _ k => keeps_send _ k) (keeps_setClaims _ h))
    (keeps_setClaims _ h)

theorem keeps_takeFrom (p bell : Nat) (h : Body.Keeps a b) : Body.Keeps a (b.takeFrom p bell) := by
  unfold Body.takeFrom
  have h1 := keeps_withdrawOnBell p bell h
  have h2 := keeps_setClaim p
    { (b.withdrawOnBell p bell |>.joinWaiting p bell).claim p with state := .partGranted }
    (keeps_joinWaiting p bell h1)
  exact keeps_raise _ (keeps_ite h1 (keeps_ite (keeps_send _ h2) h2))

theorem keeps_takeDiscards (p : Nat) (h : Body.Keeps a b) : Body.Keeps a (b.takeDiscards p) := by
  unfold Body.takeDiscards
  exact keeps_modPlayer _ _ h

theorem keeps_abort (p : Nat) (h : Body.Keeps a b) : Body.Keeps a (b.abort p).1 :=
  keeps_announceEnd _ _ (keeps_leavePerformance _ _ (keeps_clearClaim _
    (keeps_withdrawPlayer _ (keeps_takeDiscards _ h))))

theorem keeps_giveBells (now c : Nat) (g : List Nat) (h : Body.Keeps a b) :
    Body.Keeps a (b.giveBells now c g) := keeps_setClaim _ _ (keeps_setClaims _ h)

theorem keeps_moveLast (p : Nat) (h : Body.Keeps a b) : Body.Keeps a (b.moveLast p) :=
  keeps_setClaims _ h

theorem keeps_grant (now c : Nat) (g : List Nat) (h : Body.Keeps a b) :
    Body.Keeps a (b.grant now c g).1 := by
  unfold Body.grant
  simp only
  refine keeps_foldl_fst _ _ _ (fun r x k => keeps_abort _ k) ?_
  refine keeps_ite (keeps_foldl _ _ (fun _ _ k => keeps_send _ k) ?_) ?_
  all_goals
    refine keeps_send _ (keeps_moveLast _ (keeps_giveBells _ _ _ ?_))
    refine keeps_foldl _ _ (fun b x k => ?_) ?_
    · split
      · exact keeps_takeFrom _ _ k
      · exact k
    · exact keeps_foldl _ _ (fun _ _ k => keeps_ite (keeps_withdrawTest _ k) k) h

theorem keeps_considerCandidate (now : Nat) (f : List Nat) (p : Nat) (h : Body.Keeps a b) :
    Body.Keeps a (Body.considerCandidate now f b p).1 := by
  unfold Body.considerCandidate
  split
  · exact h
  · split
    · split
      · exact keeps_grant _ _ _ h
      · exact h
    · simp only
      split
      · exact h
      · exact keeps_grant _ _ _ h

theorem keeps_pass (now : Nat) (f : List Nat) (h : Body.Keeps a b) :
    Body.Keeps a (b.pass now f).1 :=
  keeps_foldl_fst _ _ _ (fun _ _ k => keeps_considerCandidate _ _ _ k) h

theorem keeps_reexamine (now n : Nat) (f : List Nat) (h : Body.Keeps a b) :
    Body.Keeps a (Body.reexamine now n b f) := by
  induction n generalizing b f with
  | zero => exact h
  | succ n ih =>
    unfold Body.reexamine
    split
    · exact h
    · exact ih _ (keeps_pass now f h)

theorem keeps_release (now p : Nat) (h : Body.Keeps a b) : Body.Keeps a (b.release now p) := by
  unfold Body.release
  exact keeps_ite h (keeps_reexamine _ _ _ (keeps_clearClaim _ h))

theorem keeps_enterFree (now p : Nat) (fate : Fate) (h : Body.Keeps a b) :
    Body.Keeps a (b.enterFree now p fate) :=
  keeps_announceEnd _ _ (keeps_release _ _ (keeps_leavePerformance _ _ h))

theorem keeps_abandonClaim (p : Nat) (h : Body.Keeps a b) : Body.Keeps a (b.abandonClaim p) :=
  keeps_raise _ (keeps_setClaim _ _ h)

theorem keeps_grantNothing (now p : Nat) (x : ClaimState) (h : Body.Keeps a b) :
    Body.Keeps a (b.grantNothing now p x) := keeps_send _ (keeps_setClaim _ _ h)

theorem keeps_claimWhole (now p : Nat) (c : ClaimBody) (h : Body.Keeps a b) :
    Body.Keeps a (b.claimWhole now p c) := by
  unfold Body.claimWhole
  exact keeps_ite (keeps_reexamine _ _ _ (keeps_grant _ _ _ h))
    (keeps_ite (keeps_setClaim _ _ h) (keeps_enterFree _ _ _ (keeps_abandonClaim _ h)))

theorem keeps_claimPartial (now p : Nat) (c : ClaimBody) (h : Body.Keeps a b) :
    Body.Keeps a (b.claimPartial now p c) := by
  unfold Body.claimPartial
  have h1 := keeps_foldl (fun b i => b.joinWaiting p i) (c.bells.filter fun i => !b.canTake c i)
    (fun _ _ k => keeps_joinWaiting _ _ k) h
  exact keeps_ite (keeps_grantNothing _ _ _ h1) (keeps_reexamine _ _ _ (keeps_grant _ _ _ h1))

theorem keeps_makeClaim (now p : Nat) (c : ClaimBody) (h : Body.Keeps a b) :
    Body.Keeps a (b.makeClaim now p c) := by
  unfold Body.makeClaim
  refine keeps_ite (keeps_grantNothing _ _ _ (keeps_setClaim _ _ h)) ?_
  split
  · exact keeps_claimWhole _ _ _ (keeps_setClaim _ _ h)
  · exact keeps_claimPartial _ _ _ (keeps_setClaim _ _ h)

theorem keeps_launch (e : Env) (r : Launch) (h : Body.Keeps a b) : Body.Keeps a (b.launch e r).1 := by
  unfold Body.launch
  split
  · exact h
  · refine keeps_makeClaim _ _ _ ?_
    simp only
    split
    · exact keeps_users _ _ (keeps_setPlayer _ _ h)
    · exact keeps_setPlayer _ _ h

theorem keeps_drain (now p : Nat) (h : Body.Keeps a b) : Body.Keeps a (b.drain now p) := by
  unfold Body.drain
  exact keeps_ite (keeps_enterFree _ _ _ (keeps_modPlayer _ _ h)) (keeps_modPlayer _ _ h)

theorem keeps_askAdmission (e : Env) (p : Nat) (r : Request) (h : Body.Keeps a b) :
    Body.Keeps a (b.askAdmission e p r).1 :=
  keeps_modPlayer p (fun x => x.countAdmission (b.decideAdmission e r).2) (keeps_admit e r h)

theorem keeps_strikeRecord (e : Env) (p : Nat) (f : Performance) (note : NoteRecord) (x : Nat)
    (h : Body.Keeps a b) : Body.Keeps a (b.strikeRecord e p f note x) := by
  unfold Body.strikeRecord
  refine keeps_ite h ?_
  simp only
  split
  · exact keeps_modPlayer _ _ h
  · exact keeps_askAdmission _ _ _ h

theorem keeps_passEnd (e : Env) (p : Nat) (f : Performance) (h : Body.Keeps a b) :
    Body.Keeps a (b.passEnd e p f) := by
  unfold Body.passEnd
  exact keeps_ite (keeps_sendFirst _ (keeps_setPerf _ _ h)) (keeps_drain _ _ (keeps_setPerf _ _ h))

theorem keeps_readRecord (e : Env) (p : Nat) (f : Performance) (h : Body.Keeps a b) :
    Body.Keeps a (b.readRecord e p f) := by
  unfold Body.readRecord
  have h1 := keeps_strikeRecord e p f (e.record (b.slot (f.slot.getD 0)) f.recordIndex)
    (b.nextTuneInstant e f)
    (keeps_modPlayer p (fun x => { x with recordsRead := x.recordsRead + 1 }) h)
  exact keeps_ite (keeps_passEnd _ _ _ h1) (keeps_sendFirst _ (keeps_setPerf _ _ h1))

theorem keeps_strokeToll (e : Env) (p : Nat) (f : Performance) (t : Toll) (h : Body.Keeps a b) :
    Body.Keeps a (b.strokeToll e p f t) := by
  unfold Body.strokeToll
  have h0 := keeps_modPlayer p (fun x => { x with recordsRead := x.recordsRead + 1 }) h
  simp only
  split
  · split
    · exact keeps_drain _ _ (keeps_setPerf _ _ (keeps_askAdmission _ _ _ h0))
    · exact keeps_sendFirst _ (keeps_setPerf _ _ (keeps_askAdmission _ _ _ h0))
  · split
    · exact keeps_drain _ _ (keeps_setPerf _ _ (keeps_modPlayer _ _ h0))
    · exact keeps_sendFirst _ (keeps_setPerf _ _ (keeps_modPlayer _ _ h0))

theorem keeps_takeDecision (e : Env) (p : Nat) (h : Body.Keeps a b) :
    Body.Keeps a (b.takeDecision e p) := by
  unfold Body.takeDecision
  simp only
  split
  · exact h
  · refine keeps_ite h ?_
    split
    · exact keeps_setPlayer _ _ h
    · split
      · exact keeps_strokeToll _ _ _ _ (keeps_setPlayer _ _ h)
      · exact keeps_readRecord _ _ _ (keeps_setPlayer _ _ h)

theorem keeps_takeGrant (e : Env) (p : Nat) (h : Body.Keeps a b) : Body.Keeps a (b.takeGrant e p) := by
  unfold Body.takeGrant
  simp only
  split
  · exact h
  · refine keeps_ite h (keeps_ite (keeps_setPlayer _ _ h) ?_)
    exact keeps_ite (keeps_drain _ _ (keeps_setPlayer _ _ h))
      (keeps_sendFirst _ (keeps_setPlayer _ _ h))

theorem keeps_takeRemoval (e : Env) (p : Nat) (way : Way) (q : Nat) (h : Body.Keeps a b) :
    Body.Keeps a (b.takeRemoval e p way q) := by
  unfold Body.takeRemoval
  refine keeps_sendFree _ (keeps_ite (keeps_enterFree _ _ _ ?_) ?_) <;>
    exact keeps_ite (keeps_setPlayer _ _ h) h

theorem keeps_settingsEvent (h : Body.Keeps a b) : Body.Keeps a b.settingsEvent := keeps_sendFree _ h

/-! ### The Calendar -/

theorem keeps_recompute (e : Env) (n : Nat) (h : Body.Keeps a b) : Body.Keeps a (b.recompute e n) := by
  unfold Body.recompute
  exact keeps_ite (keeps_send _ (keeps_setEntry _ _ h)) (keeps_setEntry _ _ h)

theorem keeps_recomputeAll (e : Env) (h : Body.Keeps a b) : Body.Keeps a (b.recomputeAll e) :=
  keeps_sendFree _ (keeps_entries _ h)

theorem keeps_launchOccurrence (e : Env) (n : Nat) (f : EntryFields) (g : Trigger) (c : Bool)
    (h : Body.Keeps a b) : Body.Keeps a (b.launchOccurrence e n f g c) := by
  unfold Body.launchOccurrence
  refine keeps_ite (keeps_setEntry _ _ h) ?_
  split
  · exact keeps_setEntry _ _ h
  · simp only
    split <;> exact keeps_setEntry _ _ (keeps_launch _ _ h)

theorem keeps_takeOccurrence (e : Env) (n : Nat) (g : Trigger) (c : Bool) (h : Body.Keeps a b) :
    Body.Keeps a (b.takeOccurrence e n g c) := by
  unfold Body.takeOccurrence
  split
  · exact h
  · rename_i f _
    have h1 := keeps_launchOccurrence e n f g c
      (keeps_setEntry n { b.entry n with lastFired := some g } h)
    exact keeps_recompute _ _ (keeps_ite (keeps_setEntry _ _ h1) h1)

theorem keeps_takeNext (e : Env) (n : Nat) (h : Body.Keeps a b) : Body.Keeps a (b.takeNext e n) := by
  unfold Body.takeNext
  split
  · exact keeps_ite (keeps_takeOccurrence _ _ _ _ h) h
  · exact h

theorem keeps_calendarEnd (n p : Nat) (fate : Fate) (h : Body.Keeps a b) :
    Body.Keeps a (b.calendarEnd n p fate) := keeps_ite (keeps_setEntry _ _ h) h

theorem keeps_forwardStep (e : Env) (x y : TowerTime) (h : Body.Keeps a b) :
    Body.Keeps a (b.forwardStep e x y) := by
  unfold Body.forwardStep
  refine keeps_sendFree _ (keeps_ite (keeps_entries _ h) (keeps_raise _ (keeps_entries _ h)))

theorem keeps_timeChange (e : Env) (x : Option TowerTime) (y : TowerTime) (h : Body.Keeps a b) :
    Body.Keeps a (b.timeChange e x y) := by
  unfold Body.timeChange
  refine keeps_ite h ?_
  split
  · exact keeps_recomputeAll _ h
  · exact keeps_ite (keeps_forwardStep _ _ _ h) (keeps_ite h (keeps_recomputeAll _ h))

theorem keeps_dayWrap (e : Env) (h : Body.Keeps a b) : Body.Keeps a (b.dayWrap e) :=
  keeps_recomputeAll e (keeps_entries _ h)

/-! ### The console -/

theorem keeps_removeHead (h : Body.Keeps a b) : Body.Keeps a (b.setCon b.con.removeHead) :=
  keeps_setCon _ h rfl rfl rfl rfl rfl rfl rfl rfl (by simp [Console.removeHead])

theorem keeps_closeDrain (e : Env) (c : CloseCause) (h : Body.Keeps a b) :
    Body.Keeps a (b.closeDrain e c) :=
  keeps_send _ (keeps_drain _ _ (keeps_modPlayer _ _ (keeps_raise _
    (keeps_setCon _ h rfl rfl rfl rfl rfl rfl rfl rfl (Nat.le_refl _)))))

theorem keeps_closeCut (e : Env) (h : Body.Keeps a b) : Body.Keeps a (b.closeCut e) :=
  keeps_enterFree _ _ _ (keeps_withdrawPlayer _
    (keeps_setCon _ h rfl rfl rfl rfl rfl rfl rfl rfl (Nat.le_refl _)))

theorem keeps_consoleEnd (fate : Fate) (h : Body.Keeps a b) : Body.Keeps a (b.consoleEnd fate) := by
  unfold Body.consoleEnd
  exact keeps_ite h (keeps_send _ (keeps_raise _
    (keeps_setCon _ h rfl rfl rfl rfl rfl rfl rfl rfl (Nat.le_refl _))))

theorem keeps_takeOpen (e : Env) (h : Body.Keeps a b) : Body.Keeps a (b.takeOpen e) := by
  unfold Body.takeOpen
  have h1 := keeps_removeHead h
  refine keeps_ite ?_ (keeps_setCon _ h1 rfl rfl rfl rfl rfl rfl rfl rfl (Nat.le_refl _))
  exact keeps_recomputeLamps _ _ (keeps_raise _
    (keeps_setCon _ (keeps_launch e _ h1) rfl rfl rfl rfl rfl rfl rfl rfl (Nat.le_refl _)))

theorem keeps_ignoreKey (h : Body.Keeps a b) : Body.Keeps a b.ignoreKey :=
  keeps_send _ (keeps_setCon _ h rfl rfl rfl rfl rfl rfl rfl rfl (by simp [Console.removeHead]))

theorem keeps_considerHead (e : Env) (h : Body.Keeps a b) : Body.Keeps a (b.considerHead e) := by
  unfold Body.considerHead
  split
  · exact h
  · split
    · exact keeps_send _ (keeps_takeOpen _ h)
    · exact keeps_ite (keeps_closeDrain _ _ (keeps_removeHead h)) (keeps_send _ (keeps_removeHead h))
    · refine keeps_ite h (keeps_ite (keeps_ite ?_ h) (keeps_ignoreKey h))
      exact keeps_setCon _ h rfl rfl rfl rfl rfl rfl rfl rfl (Nat.le_refl _)

theorem keeps_keyDone (h : Body.Keeps a b) : Body.Keeps a b.keyDone := keeps_send _ (keeps_removeHead h)

theorem keeps_playKey (e : Env) (p f x : Nat) (h : Body.Keeps a b) :
    Body.Keeps a (b.playKey e p f x) := by
  unfold Body.playKey
  split
  · exact keeps_ignoreKey h
  · refine keeps_ite (keeps_ignoreKey h) ?_
    simp only
    split
    · exact keeps_keyDone (keeps_modPlayer _ _ (keeps_modPlayer _ _ h))
    · have h1 := fun r => keeps_askAdmission e 0 r
        (keeps_modPlayer 0 (fun x => { x with recordsRead := x.recordsRead + 1 }) h)
      exact keeps_ite
        (keeps_setCon _ (h1 _) rfl rfl rfl rfl rfl rfl rfl rfl (Nat.le_refl _))
        (keeps_keyDone (h1 _))

theorem keeps_takeKey (e : Env) (h : Body.Keeps a b) : Body.Keeps a (b.takeKey e) := by
  unfold Body.takeKey
  split
  · exact h
  · split
    · exact keeps_ite (keeps_playKey _ _ _ _ h) h
    · exact h

theorem keeps_transmit (h : Body.Keeps a b) : Body.Keeps a b.transmit := by
  unfold Body.transmit Console.transmit
  split <;> exact keeps_setCon _ h rfl rfl rfl rfl rfl rfl rfl rfl (Nat.le_refl _)

/-! ### The cascade -/

theorem keeps_handle (e : Env) (m : Msg) (h : Body.Keeps a b) : Body.Keeps a (Body.handle e b m) := by
  cases m with
  | removal p way q t => exact keeps_takeRemoval _ _ _ _ h
  | hammerFree i => exact keeps_takeHammerFree _ _ h
  | grant p => exact keeps_takeGrant _ _ h
  | decide p => exact keeps_takeDecision _ _ h
  | holding i => exact keeps_lampsOfBell _ _ h
  | considerHead => exact keeps_considerHead _ h
  | consoleEnd fate => exact keeps_consoleEnd _ h
  | calendarEnd n p fate => exact keeps_calendarEnd _ _ _ h
  | occurrence n => exact keeps_ite (keeps_takeNext _ _ h) (keeps_send _ h)
  | caughtUp n g => exact keeps_ite (keeps_takeOccurrence _ _ _ _ h) (keeps_send _ h)

theorem keeps_settleFor (e : Env) (n : Nat) (h : Body.Keeps a b) :
    Body.Keeps a (Body.settleFor e n b) := by
  induction n generalizing b with
  | zero => exact h
  | succ n ih =>
    unfold Body.settleFor
    split
    · exact h
    · exact ih (keeps_handle _ _ (keeps_mail _ h))

theorem keeps_settle (e : Env) (h : Body.Keeps a b) : Body.Keeps a (b.settle e) :=
  keeps_settleFor e _ h

/-- What an event's cascade keeps. -/
theorem keeps_finish (e : Env) (h : Body.Keeps a b) : Body.Keeps a (b.finish e) :=
  keeps_transmit (keeps_settle e h)

/-! ### What follows for whole states -/

theorem State.finish_keeps (s : State) : Body.Keeps s.body s.finish.body :=
  keeps_finish s.env (Body.Keeps.refl _)

@[simp] theorem State.finish_time (s : State) : s.finish.time = s.time := rfl
@[simp] theorem State.finish_memory (s : State) : s.finish.memory = s.memory := rfl
@[simp] theorem State.finish_bells (s : State) : s.finish.bells = s.bells := rfl
@[simp] theorem State.finish_mapA (s : State) : s.finish.mapA = s.mapA := rfl
@[simp] theorem State.finish_mapB (s : State) : s.finish.mapB = s.mapB := rfl
@[simp] theorem State.finish_rst (s : State) : s.finish.rst = s.rst := rfl
@[simp] theorem State.finish_belfry (s : State) : s.finish.belfry = s.belfry := rfl
@[simp] theorem State.finish_pending (s : State) : s.finish.pending = s.pending := rfl

variable (s : State) (f : Env → Body → Body)

@[simp] theorem State.act_time : (s.act f).time = s.time := rfl
@[simp] theorem State.act_memory : (s.act f).memory = s.memory := rfl
@[simp] theorem State.act_bells : (s.act f).bells = s.bells := rfl
@[simp] theorem State.act_mapA : (s.act f).mapA = s.mapA := rfl
@[simp] theorem State.act_mapB : (s.act f).mapB = s.mapB := rfl
@[simp] theorem State.act_rst : (s.act f).rst = s.rst := rfl
@[simp] theorem State.act_belfry : (s.act f).belfry = s.belfry := rfl
@[simp] theorem State.act_pending : (s.act f).pending = s.pending := rfl

theorem State.act_keeps : Body.Keeps (f s.env s.body) (s.act f).body :=
  keeps_finish _ (Body.Keeps.refl _)

/-- An event that hands nothing on ends at once. -/
theorem Body.settle_nil (e : Env) {b : Body} (h : b.mail = []) : b.settle e = b := by
  have : settleBound = 18446744073709551615 + 1 := rfl
  unfold Body.settle
  rw [this]
  unfold Body.settleFor
  rw [h]

end Sys2Proof.Machine
end

