-- ==== Sys2Proof/Laws/Memory.lean ====
section
/-! SUPPORT. The note record memory: every operation keeps the canonical form, and what a byte reads as
after a write. -/

namespace Sys2Proof.Machine

set_option Elab.async false

/-- Every address of the memory is above this one. -/
def Memory.above (a : Nat) (m : Memory) : Prop := ∀ c ∈ m, a < c.1

theorem Memory.wf_cons (c : Host.Cell) (m : Memory) :
    Memory.wf (c :: m) = true ↔ c.2 ≠ unlisted ∧ Memory.above c.1 m ∧ Memory.wf m = true := by
  induction m generalizing c with
  | nil => simp [Memory.wf, Memory.above]
  | cons d rest ih =>
    have hd := ih d
    constructor
    · intro h
      simp only [Memory.wf, Bool.and_eq_true, decide_eq_true_eq, bne_iff_ne] at h
      obtain ⟨⟨h1, h2⟩, h3⟩ := h
      have hr := hd.mp h3
      refine ⟨h1, ?_, h3⟩
      intro x hx
      rcases List.mem_cons.mp hx with rfl | hx
      · exact h2
      · exact Nat.lt_trans h2 (hr.2.1 x hx)
    · rintro ⟨h1, h2, h3⟩
      simp only [Memory.wf, Bool.and_eq_true, decide_eq_true_eq, bne_iff_ne]
      exact ⟨⟨h1, h2 d (by simp)⟩, h3⟩

theorem Memory.above_write {x a : Nat} {m : Memory} (v : Byte) (hx : x < a)
    (h : Memory.above x m) : Memory.above x (m.write a v) := by
  induction m with
  | nil =>
    unfold Memory.write
    split
    · exact h
    · intro c hc
      rw [List.mem_singleton] at hc
      subst hc
      exact hx
  | cons c rest ih =>
    have hc : x < c.1 := h c (by simp)
    have hr : Memory.above x rest := fun y hy => h y (by simp [hy])
    unfold Memory.write
    split
    · intro y hy
      rcases List.mem_cons.mp hy with rfl | hy
      · exact hc
      · exact ih hr y hy
    · split
      · split
        · exact hr
        · intro y hy
          rcases List.mem_cons.mp hy with rfl | hy
          · exact hx
          · exact hr y hy
      · split
        · exact h
        · intro y hy
          rcases List.mem_cons.mp hy with rfl | hy
          · exact hx
          · exact h y hy

/-- A write keeps the canonical form. -/
theorem Memory.wf_write {m : Memory} (a : Nat) (v : Byte) (h : Memory.wf m = true) :
    Memory.wf (m.write a v) = true := by
  induction m with
  | nil =>
    unfold Memory.write
    split
    · rfl
    · simpa [Memory.wf]
  | cons c rest ih =>
    obtain ⟨h1, h2, h3⟩ := (Memory.wf_cons c rest).mp h
    unfold Memory.write
    split
    · rename_i hlt
      exact (Memory.wf_cons _ _).mpr ⟨h1, Memory.above_write v hlt h2, ih h3⟩
    · split
      · rename_i _ heq
        split
        · exact h3
        · rename_i hv
          exact (Memory.wf_cons _ _).mpr ⟨hv, heq ▸ h2, h3⟩
      · rename_i hnlt hne
        split
        · exact h
        · rename_i hv
          refine (Memory.wf_cons _ _).mpr ⟨hv, ?_, h⟩
          have hac : a < c.1 := by omega
          intro y hy
          rcases List.mem_cons.mp hy with rfl | hy
          · exact hac
          · exact Nat.lt_trans hac (h2 y hy)

theorem Memory.wf_writeBytes {m : Memory} (a : Nat) (vs : List Byte) (h : Memory.wf m = true) :
    Memory.wf (m.writeBytes a vs) = true := by
  induction vs generalizing m a with
  | nil => exact h
  | cons v vs ih => exact ih (a + 1) (Memory.wf_write a v h)

theorem Memory.wf_writeRecords {m : Memory} (blocks : List Nat) (i : Nat) (rs : List (List Byte))
    (h : Memory.wf m = true) : Memory.wf (m.writeRecords blocks i rs) = true := by
  induction rs generalizing m i with
  | nil => exact h
  | cons r rs ih => exact ih (i + 1) (Memory.wf_writeBytes _ r h)

theorem Memory.wf_reset : Memory.wf State.reset.memory = true := rfl

theorem Memory.read_above {a : Nat} {m : Memory} (h : Memory.above a m) : m.read a = unlisted := by
  induction m with
  | nil => rfl
  | cons c rest ih =>
    have hc : a < c.1 := h c (by simp)
    unfold Memory.read
    rw [if_neg (by omega)]
    exact ih fun y hy => h y (by simp [hy])

/-- A byte reads as it was written. -/
theorem Memory.read_write_same {m : Memory} (a : Nat) (v : Byte) (h : Memory.wf m = true) :
    (m.write a v).read a = v := by
  induction m with
  | nil =>
    unfold Memory.write
    split
    · rename_i hv; simp [Memory.read, hv]
    · simp [Memory.read]
  | cons c rest ih =>
    obtain ⟨_, h2, h3⟩ := (Memory.wf_cons c rest).mp h
    unfold Memory.write
    split
    · rename_i hlt
      unfold Memory.read
      rw [if_neg (by omega)]
      exact ih h3
    · split
      · rename_i _ heq
        split
        · rename_i hv
          rw [hv]
          exact Memory.read_above (heq ▸ h2)
        · simp [Memory.read]
      · rename_i hnlt hne
        split
        · rename_i hv
          rw [hv]
          refine Memory.read_above fun y hy => ?_
          have hac : a < c.1 := by omega
          rcases List.mem_cons.mp hy with rfl | hy
          · exact hac
          · exact Nat.lt_trans hac (h2 y hy)
        · simp [Memory.read]

/-- A write leaves every other byte as it was. -/
theorem Memory.read_write_other {m : Memory} {a x : Nat} (v : Byte) (hx : x ≠ a) :
    (m.write a v).read x = m.read x := by
  induction m with
  | nil =>
    unfold Memory.write
    split
    · rfl
    · simp [Memory.read, Ne.symm hx]
  | cons c rest ih =>
    unfold Memory.write
    split
    · simp only [Memory.read]
      split
      · rfl
      · exact ih
    · split
      · rename_i _ heq
        have hcx : c.1 ≠ x := by omega
        split
        · simp [Memory.read, hcx]
        · simp [Memory.read, hcx, Ne.symm hx]
      · split
        · rfl
        · simp [Memory.read, Ne.symm hx]

/-- Bytes written from an address on leave every address outside them as it was. -/
theorem Memory.read_writeBytes_other {m : Memory} {a x : Nat} (vs : List Byte)
    (hx : x < a ∨ a + vs.length ≤ x) : (m.writeBytes a vs).read x = m.read x := by
  induction vs generalizing m a with
  | nil => rfl
  | cons v vs ih =>
    simp only [List.length_cons] at hx
    unfold Memory.writeBytes
    rw [ih (by omega), Memory.read_write_other v (by omega)]

end Sys2Proof.Machine
end

