-- ==== Sys2Proof/Laws/PerInstr.lean ====
section
/-! SUPPORT. Of every command: a well-formed request's payload fits a request frame (R203). -/

namespace Sys2Proof.Laws.Payload

set_option Elab.async false

/-- R203: the length byte of a request is 0 to 248. -/
def Statement (i : Instr) : Prop := i.wf = true → ∀ p ∈ i.payload, p.length ≤ 248

theorem powerOnReset (boards : BitVec 3) (load belfry : Bool) : Statement (.powerOnReset boards load belfry) := by
  intro _ p hp
  cases hp

theorem rstAsserted : Statement .rstAsserted := by
  intro _ p hp
  cases hp

theorem rstReleased (belfry : Bool) : Statement (.rstReleased belfry) := by
  intro _ p hp
  cases hp

theorem configHeaderRead (read : Option (List Byte)) : Statement (.configHeaderRead read) := by
  intro _ p hp
  cases hp

theorem configSectionRead (read : Option (List Byte)) : Statement (.configSectionRead read) := by
  intro _ p hp
  cases hp

theorem telegram (bytes : List Byte) : Statement (.telegram bytes) := by
  intro _ p hp
  cases hp

theorem telegramByteTimeout : Statement .telegramByteTimeout := by
  intro _ p hp
  cases hp

theorem mark : Statement .mark := by
  intro _ p hp
  cases hp

theorem holdoverDeadline : Statement .holdoverDeadline := by
  intro _ p hp
  cases hp

theorem slewIntervalEnd : Statement .slewIntervalEnd := by
  intro _ p hp
  cases hp

theorem pendingLoadWholeSecond : Statement .pendingLoadWholeSecond := by
  intro _ p hp
  cases hp

theorem dayCountWrap : Statement .dayCountWrap := by
  intro _ p hp
  cases hp

theorem setTime (payload : List Byte) : Statement (.setTime payload) := by
  intro h p hp
  cases hp
  simp [Instr.wf, payloadFits] at h
  exact h

theorem snapshot (payload : List Byte) : Statement (.snapshot payload) := by
  intro h p hp
  cases hp
  simp [Instr.wf, payloadFits] at h
  exact h

theorem readSnapshot (payload : List Byte) : Statement (.readSnapshot payload) := by
  intro h p hp
  cases hp
  simp [Instr.wf, payloadFits] at h
  exact h

theorem readClock (payload : List Byte) : Statement (.readClock payload) := by
  intro h p hp
  cases hp
  simp [Instr.wf, payloadFits] at h
  exact h

theorem readBell (payload : List Byte) : Statement (.readBell payload) := by
  intro h p hp
  cases hp
  simp [Instr.wf, payloadFits] at h
  exact h

theorem setBell (payload : List Byte) : Statement (.setBell payload) := by
  intro h p hp
  cases hp
  simp [Instr.wf, payloadFits] at h
  exact h

theorem lockBell (payload : List Byte) : Statement (.lockBell payload) := by
  intro h p hp
  cases hp
  simp [Instr.wf, payloadFits] at h
  exact h

theorem unlockBell (payload : List Byte) : Statement (.unlockBell payload) := by
  intro h p hp
  cases hp
  simp [Instr.wf, payloadFits] at h
  exact h

theorem restoreBell (payload : List Byte) : Statement (.restoreBell payload) := by
  intro h p hp
  cases hp
  simp [Instr.wf, payloadFits] at h
  exact h

theorem strikeDue (position : Nat) : Statement (.strikeDue position) := by
  intro _ p hp
  cases hp

theorem lateDiscard (position : Nat) : Statement (.lateDiscard position) := by
  intro _ p hp
  cases hp

theorem testStrike (payload : List Byte) : Statement (.testStrike payload) := by
  intro h p hp
  cases hp
  simp [Instr.wf, payloadFits] at h
  exact h

theorem readQueue (payload : List Byte) : Statement (.readQueue payload) := by
  intro h p hp
  cases hp
  simp [Instr.wf, payloadFits] at h
  exact h

theorem setQueue (payload : List Byte) : Statement (.setQueue payload) := by
  intro h p hp
  cases hp
  simp [Instr.wf, payloadFits] at h
  exact h

theorem belfryAccessChange (asserted : Bool) : Statement (.belfryAccessChange asserted) := by
  intro _ p hp
  cases hp

theorem accessStateEvent (asserted : Bool) : Statement (.accessStateEvent asserted) := by
  intro _ p hp
  cases hp

theorem sendCompletion : Statement .sendCompletion := by
  intro _ p hp
  cases hp

theorem abortedFrameEnd : Statement .abortedFrameEnd := by
  intro _ p hp
  cases hp

theorem pollRound : Statement .pollRound := by
  intro _ p hp
  cases hp

theorem pollWindowEnd (received : List BusChar) : Statement (.pollWindowEnd received) := by
  intro _ p hp
  cases hp

theorem busNoiseByte : Statement .busNoiseByte := by
  intro _ p hp
  cases hp

theorem expiry (bell : Nat) : Statement (.expiry bell) := by
  intro _ p hp
  cases hp

theorem maskEnd (bell : Nat) : Statement (.maskEnd bell) := by
  intro _ p hp
  cases hp

theorem settleEnd (bell : Nat) : Statement (.settleEnd bell) := by
  intro _ p hp
  cases hp

theorem claimDeadline (player : Nat) : Statement (.claimDeadline player) := by
  intro _ p hp
  cases hp

theorem playerWake (player : Nat) : Statement (.playerWake player) := by
  intro _ p hp
  cases hp

theorem playNow (payload : List Byte) : Statement (.playNow payload) := by
  intro h p hp
  cases hp
  simp [Instr.wf, payloadFits] at h
  exact h

theorem stopPlayerStop (payload : List Byte) : Statement (.stopPlayerStop payload) := by
  intro h p hp
  cases hp
  simp [Instr.wf, payloadFits] at h
  exact h.1

theorem stopPlayerFinish (payload : List Byte) : Statement (.stopPlayerFinish payload) := by
  intro h p hp
  cases hp
  simp [Instr.wf, payloadFits] at h
  exact h.1

theorem readPlayer (payload : List Byte) : Statement (.readPlayer payload) := by
  intro h p hp
  cases hp
  simp [Instr.wf, payloadFits] at h
  exact h

theorem openTune (payload : List Byte) : Statement (.openTune payload) := by
  intro h p hp
  cases hp
  simp [Instr.wf, payloadFits] at h
  exact h

theorem writeTune (payload : List Byte) : Statement (.writeTune payload) := by
  intro h p hp
  cases hp
  simp [Instr.wf, payloadFits] at h
  exact h

theorem closeTune (payload : List Byte) : Statement (.closeTune payload) := by
  intro h p hp
  cases hp
  simp [Instr.wf, payloadFits] at h
  exact h

theorem eraseTune (payload : List Byte) : Statement (.eraseTune payload) := by
  intro h p hp
  cases hp
  simp [Instr.wf, payloadFits] at h
  exact h

theorem readTuneInfo (payload : List Byte) : Statement (.readTuneInfo payload) := by
  intro h p hp
  cases hp
  simp [Instr.wf, payloadFits] at h
  exact h

theorem readStore (payload : List Byte) : Statement (.readStore payload) := by
  intro h p hp
  cases hp
  simp [Instr.wf, payloadFits] at h
  exact h

theorem writeMap (payload : List Byte) : Statement (.writeMap payload) := by
  intro h p hp
  cases hp
  simp [Instr.wf, payloadFits] at h
  exact h

theorem readMap (payload : List Byte) : Statement (.readMap payload) := by
  intro h p hp
  cases hp
  simp [Instr.wf, payloadFits] at h
  exact h

theorem launchInstant (entry : Nat) : Statement (.launchInstant entry) := by
  intro _ p hp
  cases hp

theorem writeEntry (payload : List Byte) : Statement (.writeEntry payload) := by
  intro h p hp
  cases hp
  simp [Instr.wf, payloadFits] at h
  exact h

theorem enableEntry (payload : List Byte) : Statement (.enableEntry payload) := by
  intro h p hp
  cases hp
  simp [Instr.wf, payloadFits] at h
  exact h

theorem disableEntry (payload : List Byte) : Statement (.disableEntry payload) := by
  intro h p hp
  cases hp
  simp [Instr.wf, payloadFits] at h
  exact h

theorem clearEntry (payload : List Byte) : Statement (.clearEntry payload) := by
  intro h p hp
  cases hp
  simp [Instr.wf, payloadFits] at h
  exact h

theorem readEntry (payload : List Byte) : Statement (.readEntry payload) := by
  intro h p hp
  cases hp
  simp [Instr.wf, payloadFits] at h
  exact h

theorem setCalendar (payload : List Byte) : Statement (.setCalendar payload) := by
  intro h p hp
  cases hp
  simp [Instr.wf, payloadFits] at h
  exact h

theorem consoleOpen : Statement .consoleOpen := by
  intro _ p hp
  cases hp

theorem consoleKey (pitch force : Byte) : Statement (.consoleKey pitch force) := by
  intro _ p hp
  cases hp

theorem consoleClose : Statement .consoleClose := by
  intro _ p hp
  cases hp

theorem alive : Statement .alive := by
  intro _ p hp
  cases hp

theorem malformedConsoleFrame : Statement .malformedConsoleFrame := by
  intro _ p hp
  cases hp

theorem player0Key : Statement .player0Key := by
  intro _ p hp
  cases hp

theorem linkLoss : Statement .linkLoss := by
  intro _ p hp
  cases hp

theorem consoleReportSent : Statement .consoleReportSent := by
  intro _ p hp
  cases hp

theorem setConsole (payload : List Byte) : Statement (.setConsole payload) := by
  intro h p hp
  cases hp
  simp [Instr.wf, payloadFits] at h
  exact h

theorem readConsole (payload : List Byte) : Statement (.readConsole payload) := by
  intro h p hp
  cases hp
  simp [Instr.wf, payloadFits] at h
  exact h

theorem endConsoleEnd (payload : List Byte) : Statement (.endConsoleEnd payload) := by
  intro h p hp
  cases hp
  simp [Instr.wf, payloadFits] at h
  exact h.1

theorem endConsoleCut (payload : List Byte) : Statement (.endConsoleCut payload) := by
  intro h p hp
  cases hp
  simp [Instr.wf, payloadFits] at h
  exact h.1

theorem setBus (payload : List Byte) : Statement (.setBus payload) := by
  intro h p hp
  cases hp
  simp [Instr.wf, payloadFits] at h
  exact h

theorem readBus (payload : List Byte) : Statement (.readBus payload) := by
  intro h p hp
  cases hp
  simp [Instr.wf, payloadFits] at h
  exact h

theorem readTransaction (clocked : Nat) : Statement (.readTransaction clocked) := by
  intro _ p hp
  cases hp

theorem badFrameRequest (bytes : List Byte) : Statement (.badFrameRequest bytes) := by
  intro _ p hp
  cases hp

theorem unknownCommand (command : Byte) (payload : List Byte) : Statement (.unknownCommand command payload) := by
  intro _ p hp
  cases hp

theorem readNotices (payload : List Byte) : Statement (.readNotices payload) := by
  intro h p hp
  cases hp
  simp [Instr.wf, payloadFits] at h
  exact h

theorem clearNotices (payload : List Byte) : Statement (.clearNotices payload) := by
  intro h p hp
  cases hp
  simp [Instr.wf, payloadFits] at h
  exact h

theorem setNoticeMask (payload : List Byte) : Statement (.setNoticeMask payload) := by
  intro h p hp
  cases hp
  simp [Instr.wf, payloadFits] at h
  exact h

theorem restart (payload : List Byte) : Statement (.restart payload) := by
  intro h p hp
  cases hp
  simp [Instr.wf, payloadFits] at h
  exact h

theorem identify (payload : List Byte) : Statement (.identify payload) := by
  intro h p hp
  cases hp
  simp [Instr.wf, payloadFits] at h
  exact h

theorem telegramByteReceived (byte : Byte) : Statement (.telegramByteReceived byte) := by
  intro _ p hp
  cases hp

theorem consoleLinkByte (byte : Byte) : Statement (.consoleLinkByte byte) := by
  intro _ p hp
  cases hp

end Sys2Proof.Laws.Payload
end

