-- ==== Sys2Proof/Laws/Whole.lean ====
section
/-! SUPPORT. What the operations over whole states do: a bell record written, the hammer's events, the taking
of a poll reply, the configuration load. -/

namespace Sys2Proof.Machine

set_option Elab.async false

variable (s : State)

/-! ### A bell record written -/

theorem State.writeBell_bells (i : Nat) (r : Bell) :
    (s.writeBell i r).bells = s.bells.set i { r with available := r.mayBeStruck } := by
  unfold State.writeBell
  simp only
  split <;> split <;> rfl

@[simp] theorem State.writeBell_time (i : Nat) (r : Bell) : (s.writeBell i r).time = s.time := by
  unfold State.writeBell
  simp only
  split <;> split <;> rfl

@[simp] theorem State.writeBell_memory (i : Nat) (r : Bell) : (s.writeBell i r).memory = s.memory := by
  unfold State.writeBell
  simp only
  split <;> split <;> rfl

@[simp] theorem State.writeBell_mapA (i : Nat) (r : Bell) : (s.writeBell i r).mapA = s.mapA := by
  unfold State.writeBell
  simp only
  split <;> split <;> rfl

@[simp] theorem State.writeBell_mapB (i : Nat) (r : Bell) : (s.writeBell i r).mapB = s.mapB := by
  unfold State.writeBell
  simp only
  split <;> split <;> rfl

@[simp] theorem State.writeBell_rst (i : Nat) (r : Bell) : (s.writeBell i r).rst = s.rst := by
  unfold State.writeBell
  simp only
  split <;> split <;> rfl

@[simp] theorem State.writeBell_belfry (i : Nat) (r : Bell) : (s.writeBell i r).belfry = s.belfry := by
  unfold State.writeBell
  simp only
  split <;> split <;> rfl

@[simp] theorem State.writeBell_pending (i : Nat) (r : Bell) : (s.writeBell i r).pending = s.pending := by
  unfold State.writeBell
  simp only
  split <;> split <;> rfl

theorem State.writeBell_keeps {a : Body} (i : Nat) (r : Bell) (h : Body.Keeps a s.body) :
    Body.Keeps a (s.writeBell i r).body := by
  unfold State.writeBell
  simp only
  split <;> split <;> first
    | exact h
    | exact keeps_raise _ h
    | exact keeps_availabilityEvent _ _ _ h
    | exact keeps_availabilityEvent _ _ _ (keeps_raise _ h)

/-- A bell record reads as it was written, with its availability computed. -/
theorem State.bell_writeBell (i : Nat) (r : Bell) (hi : i < s.bells.length) :
    (s.writeBell i r).bell i = { r with available := r.mayBeStruck } := by
  unfold State.bell
  rw [State.writeBell_bells, List.getD_eq_getElem _ _ (by simpa using hi)]
  simp

theorem State.bell_writeBell_other (i j : Nat) (r : Bell) (h : j ≠ i) :
    (s.writeBell i r).bell j = s.bell j := by
  unfold State.bell
  rw [State.writeBell_bells]
  simp [List.getD_eq_getElem?_getD, Ne.symm h]

/-! ### What an operation over a state leaves -/

theorem State.Outside.refl : State.Outside s s := ⟨rfl, rfl, rfl, rfl, rfl, rfl, rfl⟩

variable {s} {t : State}

theorem State.Outside.trans {u : State} (h : State.Outside s t) (k : State.Outside t u) :
    State.Outside s u :=
  ⟨k.time.trans h.time, k.memory.trans h.memory, k.mapA.trans h.mapA, k.mapB.trans h.mapB,
    k.rst.trans h.rst, k.belfry.trans h.belfry, k.pending.trans h.pending⟩

theorem outside_setBody (b : Body) (h : State.Outside s t) : State.Outside s (t.setBody b) :=
  h.trans ⟨rfl, rfl, rfl, rfl, rfl, rfl, rfl⟩

theorem outside_finish (h : State.Outside s t) : State.Outside s t.finish :=
  h.trans ⟨rfl, rfl, rfl, rfl, rfl, rfl, rfl⟩

theorem outside_act (f : Env → Body → Body) (h : State.Outside s t) : State.Outside s (t.act f) :=
  h.trans ⟨rfl, rfl, rfl, rfl, rfl, rfl, rfl⟩

theorem outside_raise (n : Notice) (h : State.Outside s t) : State.Outside s (t.raise n) :=
  h.trans ⟨rfl, rfl, rfl, rfl, rfl, rfl, rfl⟩

theorem outside_setHammer (i : Nat) (x : Hammer) (h : State.Outside s t) :
    State.Outside s (t.setHammer i x) := h.trans ⟨rfl, rfl, rfl, rfl, rfl, rfl, rfl⟩

theorem outside_setBoard (i : Nat) (x : Board) (h : State.Outside s t) :
    State.Outside s (t.setBoard i x) := h.trans ⟨rfl, rfl, rfl, rfl, rfl, rfl, rfl⟩

theorem outside_writeBell (i : Nat) (r : Bell) (h : State.Outside s t) :
    State.Outside s (t.writeBell i r) :=
  h.trans ⟨by simp, by simp, by simp, by simp, by simp, by simp, by simp⟩

theorem outside_ite {u : State} {p : Prop} [Decidable p] (h : State.Outside s t)
    (k : State.Outside s u) : State.Outside s (if p then t else u) := by split <;> assumption

theorem outside_foldl {β : Type} (f : State → β → State) (l : List β)
    (hf : ∀ t x, State.Outside s t → State.Outside s (f t x)) (h : State.Outside s t) :
    State.Outside s (l.foldl f t) := by
  induction l generalizing t with
  | nil => exact h
  | cons x xs ih => exact ih (hf t x h)

/-! ### The Hammer Cycle and the board records -/

theorem outside_leaveDrive (i x : Nat) (c : Hammer) (m : Nat) (h : State.Outside s t) :
    State.Outside s (t.leaveDrive i x c m) := by
  unfold State.leaveDrive
  exact outside_ite (outside_setHammer _ _ h) (outside_ite (outside_setHammer _ _ h) (outside_setBody _ h))

theorem outside_sendCompleted (i : Nat) (h : State.Outside s t) :
    State.Outside s (t.sendCompleted i) := by
  unfold State.sendCompleted
  exact outside_ite (outside_writeBell _ _ (outside_setHammer _ _ h)) h

theorem outside_presume (i : Nat) (h : State.Outside s t) : State.Outside s (t.presume i) := by
  unfold State.presume
  exact outside_leaveDrive _ _ _ _ (outside_writeBell _ _ (outside_setHammer _ _ h))

theorem outside_maskEnds (i : Nat) (h : State.Outside s t) : State.Outside s (t.maskEnds i) := by
  unfold State.maskEnds
  exact outside_ite (outside_setHammer _ _ h) (outside_setBody _ h)

theorem outside_contactReport (i age : Nat) (h : State.Outside s t) :
    State.Outside s (t.contactReport i age) := by
  unfold State.contactReport
  simp only
  split
  · exact outside_leaveDrive _ _ _ _ (outside_writeBell _ _ (outside_setHammer _ _ h))
  · exact outside_ite (outside_writeBell _ _ (outside_setHammer _ _ h)) (outside_writeBell _ _ h)
  · exact outside_writeBell _ _ h

theorem outside_boardEvent (n : Nat) (up : Bool) (h : State.Outside s t) :
    State.Outside s (t.boardEvent n up) := by
  unfold State.boardEvent
  refine outside_foldl _ _ (fun u x k => ?_) h
  simp only
  split
  · exact outside_ite (outside_writeBell _ _ k) k
  · exact k

theorem outside_missedPoll (n : Nat) (z : Bool) (h : State.Outside s t) :
    State.Outside s (t.missedPoll n z) := by
  unfold State.missedPoll
  exact outside_ite (outside_boardEvent _ _ (outside_raise _ (outside_setBody _ (outside_setBoard _ _
    (outside_setBoard _ _ h))))) (outside_setBoard _ _ h)

theorem outside_takeFaults (n : Nat) (x : Byte) (h : State.Outside s t) :
    State.Outside s (t.takeFaults n x) := by
  unfold State.takeFaults
  refine outside_foldl _ _ (fun u x k => ?_) (outside_setBoard _ _ h)
  split
  · exact outside_writeBell _ _ k
  · exact k

theorem outside_takeReport (n i age : Nat) (h : State.Outside s t) :
    State.Outside s (t.takeReport n i age) := by
  unfold State.takeReport
  simp only
  split
  · exact outside_contactReport _ _ (outside_setBoard _ _ h)
  · exact outside_setBoard _ _ h

theorem outside_takeReply (n : Nat) (r : Reply) (h : State.Outside s t) :
    State.Outside s (t.takeReply n r) := by
  unfold State.takeReply State.takeContent
  have h0 := outside_setBoard n (t.board n).replied h
  have h1 : State.Outside s (if !(t.board n).replied.online ∧ (t.board n).replied.replyRun = 2 then
      (t.setBoard n (t.board n).replied).boardOnline n else t.setBoard n (t.board n).replied) :=
    outside_ite (outside_boardEvent _ _ (outside_raise _ (outside_setBoard _ _ h0))) h0
  have h2 := outside_foldl (fun u (c : Nat × Nat) => u.takeReport n c.1 c.2) r.reports
    (fun _ _ k => outside_takeReport _ _ _ k) (outside_takeFaults n r.faults h1)
  exact outside_ite (outside_setBoard _ _ h2) h2

theorem outside_judgeWindow (n : Nat) (x : List BusChar) (h : State.Outside s t) :
    State.Outside s (t.judgeWindow n x) := by
  unfold State.judgeWindow
  split
  · exact outside_takeReply _ _ h
  · exact outside_missedPoll _ _ h

theorem outside_orderSent (i : Nat) (h : State.Outside s t) : State.Outside s (t.orderSent i) :=
  outside_setBody _ (outside_sendCompleted _ (outside_setBody _ h))

/-! ### The configuration load and the note records -/

theorem foldl_fst_memory {β : Type} (f : State × Nat → β → State × Nat) (l : List β)
    (r : State × Nat) (hf : ∀ r x, (f r x).1.memory = r.1.memory) :
    (l.foldl f r).1.memory = r.1.memory := by
  induction l generalizing r with
  | nil => rfl
  | cons x xs ih => exact (ih _).trans (hf r x)

theorem loadBell_memory (i : Nat) (item : Option (Bool × Calibration)) :
    (s.loadBell i item).1.memory = s.memory := by
  unfold State.loadBell
  simp only
  split <;> simp

theorem loadBells_memory (items : List Byte) : (s.loadBells items).1.memory = s.memory :=
  foldl_fst_memory _ _ _ fun _ i => loadBell_memory i _

theorem loadSlots_wf (n : Nat) (bytes : List Byte) (named : List Nat) (u : State)
    (h : Memory.wf u.memory = true) : Memory.wf (u.loadSlots n bytes named).1.memory = true := by
  induction n generalizing bytes named u with
  | zero => exact h
  | succ n ih =>
    unfold State.loadSlots
    simp only
    split
    · exact h
    · refine ih _ _ _ ?_
      split
      · exact Memory.wf_writeRecords _ _ _ h
      · exact h

/-- A section applied keeps the canonical form of the note records. -/
theorem applySection_wf (k : Nat) (items : List Byte) (h : Memory.wf s.memory = true) :
    Memory.wf (s.applySection k items).1.memory = true := by
  unfold State.applySection
  split
  · rw [loadBells_memory]; exact h
  · exact h
  · exact h
  · exact loadSlots_wf _ _ _ _ h

end Sys2Proof.Machine
end

