-- ==== Sys2Proof/Tests/Slice0.lean ====
section
/-! SUPPORT. Tests: ill-formed commands refused, the byte forms on examples worked by hand, a few commands on
small states, and for every statement with hypotheses a state that meets them. -/

namespace Sys2Proof.Tests

open Sys2Proof.Machine

-- One theorem after another: many at once would each take a thread of its own.
set_option Elab.async false

/-! ### Small states -/

/-- The part after power-on reset. -/
def s0 : State := State.reset

def onTime (f : TimeBase → TimeBase) (s : State) : State := { s with time := f s.time }

def onBody (f : Body → Body) (s : State) : State := { s with body := f s.body }

def onBell (i : Nat) (f : Bell → Bell) (s : State) : State :=
  { s with bells := s.bells.modify i f }

def onBus (f : Bus → Bus) : State → State := onBody fun b => b.setBus (f b.bus)

def onCon (f : Console → Console) : State → State := onBody fun b => b.setCon (f b.con)

def onSched (f : Scheduler → Scheduler) : State → State := onBody fun b => b.setSched (f b.sched)

def onPort (f : Port → Port) : State → State := onBody fun b => b.setPort (f b.port)

def onHammer (i : Nat) (f : Hammer → Hammer) : State → State := onBody fun b =>
  b.setHammer i (f (b.hammer i))

def onPlayer (p : Nat) (f : Player → Player) : State → State := onBody fun b => b.modPlayer p f

def onSlot (n : Nat) (f : Slot → Slot) : State → State := onBody fun b => b.setSlot n (f (b.slot n))

def onEntry (n : Nat) (f : Entry → Entry) : State → State := onBody fun b => b.setEntry n (f (b.entry n))

def runTime (n : Nat) : State → State := onTime fun t => { t with runTime := n }

def tower (w : TowerTime) (phase : Nat) (c : ClockState) : State → State :=
  onTime fun t => { t with tower := some w, phase := phase, clock := c }

/-- Bell 0 calibrated, its board ONLINE and itself available. -/
def ringing : State :=
  onBus (fun u => { u with boards := u.boards.modify 0 fun x => { x with online := true } })
    (onBell 0 (fun r => { r with calibrated := true, boardOnline := true, available := true }) s0)

def heldPart : State := { s0 with rst := { asserted := true, held := true, deferred := false } }

def loading : State := State.powerOn 0 true false

def noon : TowerTime := { day := 7, weekday := 3, ms := 43200000 }

def midnight : TowerTime := { day := 7, weekday := 3, ms := 86399999 }

/-- The state a command leaves. -/
def after (c : Instr) (s : State) : State :=
  match exec c s with
  | .next t => t
  | _ => s

def answered (c : Instr) (s : State) : Option Response := (after c s).body.port.response

theorem heard {s : State} {p : List Byte}
    (h : s.rst.held = false ∧ p.length ≤ 248 ∧ s.body.port.loading = false) : Heard s p :=
  ⟨h.1, h.2.1, h.2.2⟩

/-! ### Ill-formed commands -/

theorem test_wf_header : (Instr.configHeaderRead (some [1])).wf = false := by decide
theorem test_wf_telegram_length : (Instr.telegram [165]).wf = false := by decide
theorem test_wf_telegram_sync : (Instr.telegram (List.replicate 9 0)).wf = false := by decide
theorem test_wf_payload : (Instr.setTime (List.replicate 249 0)).wf = false := by decide +kernel
theorem test_wf_stop : (Instr.stopPlayerStop [1, 1]).wf = false := by decide
theorem test_wf_finish : (Instr.stopPlayerFinish [1, 0]).wf = false := by decide
theorem test_wf_end : (Instr.endConsoleEnd [1]).wf = false := by decide
theorem test_wf_cut : (Instr.endConsoleCut [0]).wf = false := by decide
theorem test_wf_strike : (Instr.strikeDue 256).wf = false := by decide
theorem test_wf_late : (Instr.lateDiscard 256).wf = false := by decide
theorem test_wf_expiry : (Instr.expiry 56).wf = false := by decide
theorem test_wf_mask : (Instr.maskEnd 56).wf = false := by decide
theorem test_wf_settle : (Instr.settleEnd 56).wf = false := by decide
theorem test_wf_claim : (Instr.claimDeadline 8).wf = false := by decide
theorem test_wf_wake : (Instr.playerWake 0).wf = false ∧ (Instr.playerWake 8).wf = false := by decide
theorem test_wf_launch : (Instr.launchInstant 48).wf = false := by decide
theorem test_wf_key : (Instr.consoleKey 128 1).wf = false ∧ (Instr.consoleKey 1 128).wf = false := by
  decide
theorem test_wf_bad_frame_idle : (Instr.badFrameRequest [255, 255]).wf = false := by decide
theorem test_wf_bad_frame_good :
    (Instr.badFrameRequest ([17, 0] ++ word16 (crc16 [17, 0]))).wf = false := by decide +kernel
theorem test_wf_unknown : (Instr.unknownCommand 16 []).wf = false := by decide
theorem test_wf_unknown_payload :
    (Instr.unknownCommand 1 (List.replicate 249 0)).wf = false := by decide +kernel

/-! ### Byte forms -/

/-- R202: the value for the nine characters 1 to 9. -/
theorem test_crc : crc16 [0x31, 0x32, 0x33, 0x34, 0x35, 0x36, 0x37, 0x38, 0x39] = 10673#16 := by
  decide +kernel

/-- R205: 7 seconds past 18:30 on day 258, weekday 4, fix good; the bytes sum to 0 modulo 256. -/
theorem test_telegram : readTelegram [165, 18, 30, 7, 4, 1, 2, 1, 28] =
    some { day := 258, weekday := 4, ms := (18 * 3600 + 30 * 60 + 7) * 1000 } := by decide

theorem test_telegram_no_fix : readTelegram [165, 18, 30, 7, 4, 1, 2, 0, 29] = none := by decide

/-- R209: pitch 60, force 9, delay 259. -/
theorem test_record : noteOf [60, 0x91, 3] = { pitch := 60, force := 9, delay := 259 } := by decide

/-- R205, R206: the check byte is the exclusive or of the bytes before it, bit 7 cleared. -/
theorem test_console_key : judgeFrame [130, 60, 9, 55] = .event (.key 60 9) := by decide

theorem test_console_report : (Report.lamp 5 .held).frame = [146, 5, 1, 22] := by decide

/-- R208: one contact report of hammer 2 at age 300. -/
theorem test_reply :
    let bytes := u8 1 ++ u8 0 ++ u8 1 ++ u8 0x21 ++ u8 0x2C
    readReply 1 ((bytes ++ word16 (crc16 bytes)).map fun x =>
      { byte := x, mark := false, framed := true }) =
      some { faults := 0, reports := [(2, 300)], overflow := false } := by decide +kernel

/-- R24: p1 20 and p15 100. -/
theorem test_pulses :
    [1, 2, 3, 8, 9, 15].map (Bell.pulse { s0.bell 0 with p1 := 20, p15 := 100 }) =
      [20, 25, 31, 60, 65, 100] := by decide +kernel

/-- R21: the mean of the most recent values, the remainder discarded. -/
theorem test_estimate :
    let r : BandRing := { values := [480, 490, 500, 505, 400, 400, 400, 400], position := 4 }
    [1, 2, 4, 8].map r.mean = [505, 502, 493, 446] := by decide

/-- R144, R148: HOUR12. -/
theorem test_hour12 : [0, 1, 11, 12, 13, 23].map hour12 = [12, 1, 11, 12, 1, 11] := by decide

/-! ### Commands on small states -/

def setTimeNoon : List Byte := u16 7 ++ u8 3 ++ u32 43200000

theorem test_setTime : (after (.setTime setTimeNoon) s0).time.tower = some noon ∧
    (after (.setTime setTimeNoon) s0).time.clock = .holdover ∧
    answered (.setTime setTimeNoon) s0 = some { status := .ok, payload := [2] } := by decide +kernel

theorem test_readBell_absent_operand :
    answered (.readBell []) s0 = some { status := .badOperand, payload := [] } := by decide +kernel

theorem test_starting :
    answered (.identify []) loading = some { status := .starting, payload := [] } := by decide +kernel

theorem test_consoleOpen : (after .consoleOpen s0).body.con.session = .live ∧
    (after .consoleOpen s0).body.con.fifo = [] ∧
    (after .consoleOpen s0).body.port.raises = (List.replicate 13 0).set 9 1 := by decide +kernel

theorem test_endConsoleCut :
    (after (.endConsoleCut (u8 1)) (after .consoleOpen s0)).body.con.session = .off ∧
    (after (.endConsoleCut (u8 1)) (after .consoleOpen s0)).body.con.lastOutcome = some .stopped := by
  decide +kernel

/-- R77, R67, R38, R42: a test strike is queued, handed off, sent and presumed. -/
theorem test_testStrike :
    (after (.testStrike [0, 4]) ringing).body.occupancy = 1 ∧
    answered (.testStrike [0, 4]) ringing =
      some { status := .ok, payload := u48 8 ++ u48 809 } := by decide +kernel

def fired : State := after (.strikeDue 0) (runTime 8 (after (.testStrike [0, 4]) ringing))

theorem test_strikeDue : (fired.hammer 0).state = .ordered ∧ fired.body.occupancy = 0 ∧
    fired.body.bus.line = .actuate 0 9 false ∧ fired.body.sched.fired = 1 := by decide +kernel

def flying : State := after .sendCompletion (runTime 9 fired)

theorem test_sendCompletion : (flying.hammer 0).state = .drive ∧
    (flying.hammer 0).expiry = some (9 + 1200 + 80) ∧ (flying.bell 0).actuations = 1 ∧
    flying.body.bus.sendList = [] := by decide +kernel

theorem test_expiry : ((after (.expiry 0) (runTime 1289 flying)).hammer 0).state = .mask ∧
    ((after (.expiry 0) (runTime 1289 flying)).bell 0).missRun = 1 ∧
    ((after (.expiry 0) (runTime 1289 flying)).bell 0).health = .suspect := by decide +kernel

/-- R122, R105, R110: a toll of one stroke on bell 0 is launched, granted and queued. -/
def tollPayload : List Byte :=
  u8 0 ++ u8 1 ++ (u8 0 ++ u8 0 ++ u8 0 ++ u8 0 ++ u8 0 ++ u8 0 ++ u8 0 ++ u8 0 ++ u8 1 ++ u16 1000 ++
    u8 8 ++ u8 0 ++ u8 0 ++ u8 0 ++ u16 0 ++ u8 0 ++ u16 100)

theorem test_playNow :
    answered (.playNow tollPayload) ringing = some { status := .ok, payload := u8 1 ++ u48 16000 } ∧
    ((after (.playNow tollPayload) ringing).body.player 1).state = .playing ∧
    ((after (.playNow tollPayload) ringing).body.player 1).generation = .stalled ∧
    (after (.playNow tollPayload) ringing).body.holder 0 = some 1 := by decide +kernel

theorem test_playerWake :
    let t := after (.playerWake 1) (runTime 4000 (after (.playNow tollPayload) ringing))
    (t.body.player 1).state = .draining ∧ t.body.sched.queue.map (·.sounding) = [16000] := by
  decide +kernel

theorem test_lockBell : ((after (.lockBell (u8 0)) ringing).bell 0).available = false ∧
    (after (.lockBell (u8 0)) fired).body.bus.sendList = [] ∧
    ((after (.lockBell (u8 0)) fired).hammer 0).state = .idle := by decide +kernel

def opened : State := after (.openTune (u8 5 ++ u16 2 ++ u8 12 ++ u8 0 ++ u16 0)) s0

theorem test_openTune : (opened.body.slot 5).state = .writing ∧ (opened.body.slot 5).blocks = [0] := by
  decide +kernel

def written : State :=
  after (.writeTune (u8 5 ++ u16 0 ++ u8 2 ++ [60, 0x80, 0, 62, 0x81, 4])) opened

theorem test_writeTune : written.memory = [(0, 60), (1, 0x80), (3, 62), (4, 0x81), (5, 4)] := by
  decide +kernel

theorem test_closeTune :
    let t := after (.closeTune (u8 5 ++ word16 (crc16 [60, 0x80, 0, 62, 0x81, 4]))) written
    (t.body.slot 5).state = .ready ∧ (t.body.slot 5).pitches = some [60, 62] ∧
    (t.body.slot 5).ticks = some 260 := by decide +kernel

theorem test_pollRound : (after .pollRound s0).body.bus.line = .poll 1 2 ∧
    (after .pollRound s0).body.bus.nextRound = 64 := by decide +kernel

theorem test_pollWindowEnd_silence :
    ((after (.pollWindowEnd []) (runTime 2 (after .pollRound s0))).body.board 1).noReply = 1 := by
  decide +kernel

theorem test_restart : (after (.restart []) ringing).body.port.warmResets = 1 ∧
    ((after (.restart []) ringing).hammer 0).state = .settle ∧
    answered (.restart []) ringing = some { status := .ok, payload := [] } := by decide +kernel

theorem test_step_on_reset :
    (match step s0 with | .next t => t | _ => s0) = { s0 with pending := [.pollRound] } := by
  decide +kernel

theorem test_decodeTableWord : decodeTableWord 8 16 = none := by decide

/-! ### States that meet the hypotheses of the statements -/

/-- No poll round is due. -/
def quiet : State := onBus (fun u => { u with nextRound := 64 }) s0

theorem test_witness_EmptyQueueLetsTimePass :
    (quiet.pending = [] ∧ quiet.rst.held = false ∧ quiet.dueEvents = [] ∧ quiet.time.tower = none) ∧
    (tower midnight 6 .holdover quiet).dueEvents = [] ∧
    (onTime (fun t => { t with withhold := true }) (tower midnight 7 .holdover quiet)).dueEvents = [] ∧
    (tower midnight 7 .holdover quiet).dueEvents = [] ∧
    (tower noon 7 .holdover quiet).dueEvents = [] ∧ s0.dueEvents ≠ [] := by decide +kernel

/-- Rows of time one eighth before they are due, and when they are. -/
theorem test_dueEvents :
    let at' := fun (n : Nat) (s : State) => (runTime n (onBus (fun u => { u with nextRound := 90000 }) s)).dueEvents
    let locked := onTime (fun t => { t with clock := .locked, lastMark := some 0 }) s0
    let slewing := onTime (fun t => { t with slew := -1 }) s0
    let begun := onTime (fun t => { t with rx := [165] }) s0
    let polling := onBus (fun u => { u with line := .poll 1 2 }) s0
    let sending := onBus (fun u => { u with line := .actuate 0 2 true }) s0
    (at' 27999 locked, at' 28000 locked) = ([], [.holdoverDeadline]) ∧
    (at' 511 slewing, at' 512 slewing) = ([], [.slewIntervalEnd]) ∧
    (at' 160 begun, at' 161 begun) = ([], [.telegramByteTimeout]) ∧
    (at' 1 polling, at' 2 polling) = ([], [.pollWindowEnd []]) ∧
    (at' 1 sending, at' 2 sending) = ([], [.abortedFrameEnd]) ∧
    (at' 89999 s0, at' 90000 s0) = ([], [.pollRound]) := by decide +kernel

theorem test_witness_HeldPartTakesNoEvent :
    heldPart.rst.held = true ∧ Instr.mark.isReset = false ∧ heldPart.pending = [] ∧
    (tower noon 6 .holdover heldPart).rst.held = true ∧
    (tower midnight 7 .holdover heldPart).rst.held = true := by decide +kernel

theorem test_witness_invariants :
    MemoryCanonical s0 ∧ RunTimeInRange s0 ∧ TowerWithClock s0 ∧ s0.body.Accounts ∧
    s0.body.QueueOrdered ∧ s0.body.QueueFits ∧ s0.body.FifoFits ∧ s0.body.OneOrderEach ∧
    s0.body.OrdersInTurn ∧ LineServesOrders s0 ∧ AvailabilityDerived s0 ∧ FlightsSound s0 ∧
    s0.body.OneWriting ∧ (∃ t, step s0 = .next t) ∧ (s0.bell 0).FlightSound := by
  refine ⟨?_, ?_, ?_, ?_, ?_, ?_, ?_, ?_, ?_, ⟨⟨fun _ => rfl, fun _ _ h => ?_⟩, fun _ => rfl⟩, ?_, ?_, ?_,
    ⟨_, rfl⟩, ?_⟩
  · unfold MemoryCanonical; decide +kernel
  · unfold RunTimeInRange; decide +kernel
  · unfold TowerWithClock; decide +kernel
  · unfold Body.Accounts; decide +kernel
  · unfold Body.QueueOrdered; decide +kernel
  · unfold Body.QueueFits; decide +kernel
  · unfold Body.FifoFits; decide +kernel
  · unfold Body.OneOrderEach; decide +kernel
  · unfold Body.OrdersInTurn Order.Before; decide +kernel
  · exact nomatch (show Line.idle = .actuate _ _ false from h)
  · unfold AvailabilityDerived; decide +kernel
  · unfold FlightsSound Bell.FlightSound BandRing.Within; decide +kernel
  · have h : ∀ i < 64, (s0.body.slot i).state ≠ .writing := by decide +kernel
    exact fun i hi _ _ k => absurd k (h i hi)
  · unfold Bell.FlightSound BandRing.Within; decide +kernel

/-- Belfry Access asserted with nothing in the list: the last clause of the send list's statement. -/
theorem test_witness_StepKeepsSendListLawful :
    let s := onBus (fun u => { u with access := true }) s0
    LineServesOrders s ∧ s.body.bus.access = true :=
  ⟨⟨⟨fun _ => rfl, fun _ _ h => nomatch (show Line.idle = .actuate _ _ false from h)⟩,
    fun _ => rfl⟩, rfl⟩

theorem test_witness_StepKeepsTowerWithClock : TowerWithClock (onTime (fun t => { t with
    pendingLoad := some midnight, wholeSecond := true }) (tower noon 0 .holdover s0)) := by
  unfold TowerWithClock
  decide +kernel

theorem test_witness_RstLineHoldsAndReleases :
    (s0.rst.asserted = false ∧ s0.body.port.loading = false) ∧
    (loading.rst.asserted = false ∧ loading.body.port.loading = true) ∧
    (heldPart.rst.asserted = true ∧ heldPart.rst.held = true) ∧
    ((after .rstAsserted loading).rst.asserted = true ∧
      (after .rstAsserted loading).rst.held = false) := by decide +kernel

/-- A RESTART between the two rows of one change takes the input's present level at both blocks, and the row that
follows it is no change and raises nothing. -/
theorem test_restart_takes_the_input :
    let t := after (.restart []) (after (.accessStateEvent true) s0)
    let u := after (.restart []) (after (.belfryAccessChange true) s0)
    [t, u].map (fun v => (v.body.sched.access, v.body.bus.access, v.belfry)) =
      List.replicate 2 (true, true, true) ∧
    (after (.belfryAccessChange true) t).body.port.pendingFlags = 0 := by decide +kernel

theorem test_witness_RestartIsAWarmReset : Heard s0 [] := heard (by decide +kernel)

def goodHeader : List Byte :=
  let b := u16 23121 ++ (List.range 4).flatMap fun k => u32 (36 + 2 * k) ++ u32 2
  b ++ word16 (crc16 b)

theorem test_witness_ConfigHeaderDecidesTheLoad :
    loading.rst.held = false ∧ loading.body.port.loading = true ∧ loading.body.port.load = true ∧
    loading.body.port.header = .notRead ∧ headerGood goodHeader = true ∧
    headerGood [0] = false := by decide +kernel

/-- The load waits for its sections, with a header whose first section has no length. -/
def emptyHeader : List Byte :=
  let b := u16 23121 ++ u32 36 ++ u32 0 ++ (List.range 3).flatMap fun k => u32 (36 + 2 * k) ++ u32 2
  b ++ word16 (crc16 b)

theorem test_witness_ConfigHeaderDecidesTheLoad_ends :
    headerGood emptyHeader = false ∧ s0.rst.deferred = false ∧
    (let u := after .rstAsserted loading
     u.rst.deferred = true ∧ u.rst.asserted = true) ∧
    (let u := after (.rstReleased false) (after .rstAsserted loading)
     u.rst.deferred = true ∧ u.rst.asserted = false) := by decide +kernel

def reading : State := after (.configHeaderRead (some goodHeader)) loading

def lastSection : State := onPort (fun p => { p with nextSection := 3 }) reading

theorem test_witness_ConfigSectionIsRecorded :
    (reading.rst.held = false ∧ reading.body.port.loading = true ∧ reading.body.port.header = .good ∧
      reading.body.port.nextSection = 0) ∧ lastSection.body.port.nextSection = 3 ∧
    (reading.body.port.directory.getD 0 (0, 0)).2 = 2 ∧ sectionGood 2 [255, 255] = true ∧
    sectionGood 2 [0, 0] = false := by decide +kernel

def bellRecord (calibrated board hammer : Nat) : List Byte :=
  u8 calibrated ++ (u8 board ++ u8 hammer ++ u16 80 ++ u16 2400 ++ u8 4 ++ u16 800 ++ u16 400 ++
    u8 192 ++ u8 32 ++ u16 800 ++ u8 16 ++ u8 96 ++ u8 3)

theorem test_witness_ConfigSectionIsRecorded_bells :
    sectionGood 1 [0] = false ∧
    ((readBellRecord (bellRecord 0 1 7)).map fun x => (x.1, x.2.placement)) =
      some (true, some (1, 7)) ∧
    ((readBellRecord (bellRecord 1 2 0)).map fun x => x.2.placement) = some (some (2, 0)) ∧
    (s0.bell 7).present = true ∧ (s0.bell 8).present = false ∧ s0.body.port.boards = 1 ∧
    ((s0.bell 0).present = true ∧ (s0.bell 0).placement = some (1, 0)) := by decide +kernel

theorem test_witness_ConfigSectionIsRecorded_tunes :
    (let items := u8 63 ++ u16 1 ++ u8 31 ++ u8 7 ++ u16 4095 ++ word16 (crc16 [95, 0, 0]) ++ [95, 0, 0]
     (9 + 3 * 1 ≤ items.length ∧ items.length < 9 + 3 * 2) ∧ byteAt items 0 = 63 ∧
     byteAt items 3 = 31 ∧ wordAt items 5 = 4095 ∧ byteAt (items.drop 9) 0 % 128 = 95 ∧
     (crc16 [95, 0, 0]).toNat = wordAt items 7) ∧
    1 ≤ s0.body.freeBlocks.length ∧ s0.body.slots.length = 64 ∧
    (parseEntryFields (List.replicate 33 0) 0).isNone = true := by decide +kernel

def begun (n : Nat) : State :=
  onTime (fun t => { t with rx := List.replicate n 165, rxLast := 0 }) (runTime 161 s0)

theorem test_witness_TelegramsAreHeldOrCountedBad :
    s0.rst.held = false ∧ (∃ w, readTelegram [165, 18, 30, 7, 4, 1, 2, 1, 28] = some w) ∧
    readTelegram [165] = none ∧ s0.time.rx = [] ∧ (0 : Byte) ≠ 165 ∧ (0 : Byte) ≠ 255 ∧
    ((begun 1).time.rx ≠ [] ∧ (begun 7).time.rx.length < 8) ∧ (begun 8).time.rx.length = 8 ∧
    (begun 1).time.rxLast + 161 ≤ (begun 1).time.runTime :=
  ⟨by decide, ⟨_, test_telegram⟩, by decide +kernel⟩

def holding (h : HeldTelegram) (now : Nat) (s : State) : State :=
  onTime (fun t => { t with held := some h }) (runTime now s)

theorem test_witness_MarkIsOrphanedOrStartsTowerTime :
    s0.rst.held = false ∧ s0.time.held = none ∧
    ((holding { time := noon, arrival := 0 } 8801 s0).time.held = some { time := noon, arrival := 0 } ∧
      0 + 8800 < (holding { time := noon, arrival := 0 } 8801 s0).time.runTime) ∧
    ((holding { time := noon, arrival := 0 } 8800 s0).time.runTime ≤ 0 + 8800 ∧
      (holding { time := noon, arrival := 0 } 8800 s0).time.tower = none) := by decide +kernel

/-- A telegram naming this many ms after noon, held while Tower Time is noon. -/
def offBy (ms weekday : Nat) : State :=
  holding { time := { noon with weekday := weekday, ms := noon.ms + ms }, arrival := 0 } 8800
    (tower noon 0 .locked s0)

theorem test_witness_MarkDisciplinesTowerTime :
    (offBy 2 3).rst.held = false ∧ (offBy 2 3).time.tower = some noon ∧
    (offBy 2 3).time.runTime ≤ 0 + 8800 ∧
    [offBy 2 3, offBy 3 3, offBy 1000 4, offBy 1001 3].map (fun s => s.time.held.map (·.time)) =
      [some { noon with ms := 43200002 }, some { noon with ms := 43200003 },
       some { noon with weekday := 4, ms := 43201000 }, some { noon with ms := 43201001 }] := by
  decide +kernel

def locked (now : Nat) : State :=
  onTime (fun t => { t with lastMark := some 0 }) (runTime now (tower noon 0 .locked s0))

theorem test_witness_HoldoverDeadlineLeavesLocked :
    (locked 28000).rst.held = false ∧ (locked 28000).time.clock = .locked ∧
    (locked 28000).time.lastMark = some 0 ∧ 0 + 28000 ≤ (locked 28000).time.runTime ∧
    s0.time.clock ≠ .locked := by decide +kernel

def slewing (n : Int) : State :=
  onTime (fun t => { t with slew := n }) (runTime 512 (tower noon 0 .locked s0))

theorem test_witness_SlewIntervalAppliesOneMillisecond :
    (slewing 1).rst.held = false ∧ (slewing 1).time.slewStart + 512 ≤ (slewing 1).time.runTime ∧
    0 < (slewing 1).time.slew ∧ (slewing (-1)).time.slew < 0 := by decide +kernel

def waitingLoad (w : TowerTime) : State :=
  onTime (fun t => { t with pendingLoad := some w, wholeSecond := true }) (tower noon 0 .holdover s0)

theorem test_witness_WholeSecondLoadsPendingTime :
    (waitingLoad noon).rst.held = false ∧ (waitingLoad noon).time.pendingLoad = some noon ∧
    (waitingLoad noon).time.wholeSecond = true ∧ (waitingLoad noon).time.tower = some noon ∧
    (waitingLoad midnight).time.pendingLoad = some midnight := by decide +kernel

theorem test_witness_DayCountWrapForgetsLastFired :
    (onTime (fun t => { t with dayWrapped := true }) s0).rst.held = false ∧
    (onTime (fun t => { t with dayWrapped := true }) s0).time.dayWrapped = true := by decide +kernel

theorem test_witness_SetTimeFollowsClockState :
    Heard s0 setTimeNoon ∧ Heard (tower noon 0 .holdover s0) setTimeNoon ∧
    Heard (tower noon 0 .locked s0) setTimeNoon ∧ parseSetTime setTimeNoon = some noon ∧
    s0.time.clock = .unset ∧ (tower noon 0 .holdover s0).time.clock = .holdover ∧
    (tower noon 0 .locked s0).time.clock = .locked :=
  ⟨heard (by decide +kernel), heard (by decide +kernel), heard (by decide +kernel), by decide +kernel⟩

theorem test_witness_SnapshotLatchesAndEmpties :
    Heard s0 [] ∧ s0.time.snapshot = none ∧ Heard (after (.snapshot []) s0) [] ∧
    (after (.snapshot []) s0).time.snapshot = some { tower := none, runTime := 0, clock := .unset } :=
  ⟨heard (by decide +kernel), by decide, heard (by decide +kernel), by decide +kernel⟩

theorem test_witness_RequestsMeetThePort :
    (Instr.snapshot (List.replicate 249 0)).payload = some (List.replicate 249 0) ∧
    248 < (List.replicate 249 (0 : Byte)).length ∧ (List.replicate 248 (0 : Byte)).length ≤ 248 ∧
    s0.rst.held = false ∧ loading.rst.held = false ∧ loading.body.port.loading = true ∧
    s0.body.port.loading = false ∧ (Instr.snapshot (List.replicate 248 0)).operandsRead = false := by
  decide +kernel

/-- Ranges at their ends. -/
theorem test_operand_ranges :
    [15, 16, 400, 401].map (fun x => parseSetBus (u16 x)) = [none, some 16, some 400, none] ∧
    [0, 1, 15, 16].map (fun f => parseTestStrike [55, f]) =
      [none, some (55, 1), some (55, 15), none] ∧
    [86399999, 86400000].map (fun x => (parseSetTime (u16 65535 ++ u8 6 ++ u32 x)).isSome) =
      [true, false] ∧
    [254, 255].map (fun x => readMapEntry 55 x) = [none, some { primary := some 55, alternate := none }] ∧
    readMapEntry 7 7 = none := by decide +kernel

theorem test_witness_ReadsAnswerAndChangeNothing :
    Heard s0 [] ∧ Heard s0 (u8 55) ∧ Heard s0 (u8 255) ∧ Heard s0 (u8 7) ∧ Heard s0 (u8 63) ∧
    Heard s0 (u8 47) ∧ Heard s0 [1, 95, 1] ∧ parseReadMap [1, 95, 1] = some (.b, 95, 1) ∧
    Heard s0 (u8 0) ∧ Heard s0 (u8 1 ++ u8 55) ∧ Heard s0 (u8 2 ++ u8 55) ∧ Heard s0 (u8 3) := by
  refine ⟨?_, ?_, ?_, ?_, ?_, ?_, ?_, by decide +kernel, ?_, ?_, ?_, ?_⟩ <;>
    exact heard (by decide +kernel)

/-- The tune total and the consecutive ACTUATE count are one byte each, a tempo one item, and the line's bell or
board an item absent while IDLE. -/
theorem test_item_layouts :
    (s0.body.queueBytes 0).length = 24 + 2 + 16 + 2 + 1 + 7 + 2 + 2 ∧
    ({ Slot.emptySlot with tempo := some (12, 3) } : Slot).bytes.take 5 = [0, 0, 1, 12, 3] ∧
    [Line.idle, .actuate 55 2 false, .poll 7 2].map Line.bytes = [[0, 0], [1, 1, 55], [2, 1, 7]] ∧
    s0.body.bus.statusBytes.length = 2 + 1 + 2 + 1 + 1 + 1 + 1 + 7 * 4 := by
  decide +kernel

theorem test_witness_LockoutAndBellWrites :
    Heard s0 (u8 55) ∧ (s0.bell 0).mayBeStruck = (s0.bell 0).available ∧
    ((ringing.bell 0).mayBeStruck = true ∧ (s0.bell 0).available = false) ∧
    ((s0.bell 0).mayBeStruck = false ∧ (ringing.bell 0).available = true) :=
  ⟨heard (by decide +kernel), by decide +kernel⟩

/-- The default calibration, placed here. -/
def calibrationAt (board hammer : Nat) : List Byte :=
  u8 board ++ u8 hammer ++ u16 80 ++ u16 2400 ++ u8 4 ++ u16 800 ++ u16 400 ++ u8 192 ++ u8 32 ++
    u16 800 ++ u8 16 ++ u8 96 ++ u8 3

theorem test_witness_SetBellChecksThenWrites :
    let p := fun (n board hammer : Nat) => u8 n ++ calibrationAt board hammer
    let place := fun (n board hammer : Nat) =>
      (parseSetBell (p n board hammer)).map fun x => (x.1, x.2.placement)
    Heard s0 (p 0 1 0) ∧ Heard (onBody (fun b => b.setClaims { b.claims with
      holders := b.claims.holders.set 0 (some 1) }) s0) (p 0 1 0) ∧
    (place 0 2 0 = some (0, some (2, 0)) ∧ s0.body.port.boards = 1) ∧
    (place 0 1 1 = some (0, some (1, 1)) ∧ (s0.bell 1).present = true ∧
      (s0.bell 1).placement = some (1, 1)) ∧
    (place 8 0 0 = some (8, none) ∧ (s0.bell 8).present = false) ∧
    (place 0 1 0 = some (0, some (1, 0)) ∧ (s0.bell 0).present = true ∧
      (s0.bell 0).placement = some (1, 0) ∧ s0.body.holder 0 = none ∧ s0.body.sched.queue = []) ∧
    (place 0 0 0 = some (0, none) ∧ (flying.hammer 0).state ≠ .idle) :=
  ⟨heard (by decide +kernel), heard (by decide +kernel), by decide +kernel⟩

theorem test_witness_RestoreBellNeedsNoFault :
    Heard s0 (u8 55) ∧ (s0.bell 55).faultReported = false ∧ 55 < s0.bells.length ∧
    Heard (onBell 0 (fun r => { r with faultReported := true }) s0) (u8 0) ∧
    ((onBell 0 (fun r => { r with faultReported := true }) s0).bell 0).faultReported = true ∧
    Heard s0 (u8 56) ∧ Heard s0 (u8 255) ∧ (s0.bell 0).missRun = 0 :=
  ⟨heard (by decide +kernel), by decide +kernel, by decide +kernel, heard (by decide +kernel),
    by decide +kernel, heard (by decide +kernel), heard (by decide +kernel), by decide +kernel⟩

theorem test_witness_ReportsChangeTheBellRecord :
    let r := s0.bell 0
    r.p1 ≤ r.p15 ∧ r.floor = 80 ∧ r.ceiling = 2400 ∧ (79 < r.floor ∧ r.ceiling < 2401) ∧
    (r.floor ≤ 80 ∧ 80 ≤ r.ceiling) ∧ (r.floor ≤ 2400 ∧ 2400 ≤ r.ceiling) := by decide +kernel

def presumedState : State := after (.expiry 0) (runTime 1289 flying)

theorem test_witness_ContactReportsByHammerState :
    (flying.hammer 0).state = .drive ∧ (presumedState.hammer 0).state = .mask ∧
    (presumedState.hammer 0).presumed = true := by decide +kernel

theorem test_witness_BouncesAndStraysAreOnlyCounted :
    (let s := onHammer 0 (fun h => { h with presumed := false }) presumedState
     AvailabilityDerived s ∧ (s.hammer 0).state = .mask ∧ (s.hammer 0).presumed = false) ∧
    (AvailabilityDerived fired ∧ (fired.hammer 0).state = .ordered) ∧
    (AvailabilityDerived s0 ∧ (s0.hammer 0).state = .idle) ∧
    (onHammer 0 (fun _ => .settling 1) s0).hammer 0 = .settling 1 := by
  unfold AvailabilityDerived
  decide +kernel

def timerAt (x : HammerState) : State :=
  onHammer 0 (fun h => { h with state := x, timerEnd := some 5 }) (runTime 5 s0)

theorem test_witness_HammerTimersEnd :
    (timerAt .drive).rst.held = false ∧ 5 ≤ (timerAt .drive).now ∧
    ([HammerState.drive, .mask, .settle].map fun x =>
      (((timerAt x).hammer 0).state, ((timerAt x).hammer 0).timerEnd)) =
      [(.drive, some 5), (.mask, some 5), (.settle, some 5)] ∧
    ((timerAt .mask).bell 0).recovery ≠ 0 ∧
    ((onBell 0 (fun r => { r with recovery := 0 }) (timerAt .mask)).bell 0).recovery = 0 := by
  decide +kernel

/-- A TEST strike on bell 0. -/
def strikeOf (x : StrikeState) : Strike :=
  { bell := 0, force := 4, band := .soft, sounding := 809, fire := 8, origin := .test, player := none,
    tunePosition := none, deferral := 0, admittedLate := 0, clear := 1808, state := x }

def queued (ks : List Strike) (now : Nat) (s : State) : State :=
  onSched (fun c => { c with queue := ks }) (runTime now s)

theorem test_witness_StrikesLeaveTheQueueOneWay :
    let s := queued [strikeOf .due] 329 s0
    s.body.sched.queue[0]? = some (strikeOf .due) ∧ s.rst.held = false ∧
    s.body.sched.lateLimit < s.now - 8 + 0 := by decide +kernel

/-- R75: the removal event of a player's strike carries its queued count and the tune total left. -/
theorem test_removal_event :
    let k := { strikeOf .queued with player := some 1 }
    let b := (queued [k, k, { k with player := some 2 }] 0 s0).body
    (b.removeAt 0 .withdrawn).mail = [.removal 1 .withdrawn 1 2, .considerHead] ∧
    (b.withdrawPlayer 1).mail = [.removal 1 .withdrawn 1 2, .considerHead, .removal 1 .withdrawn 0 1,
      .considerHead] := by decide +kernel

/-- A fall of bell 0 with a strike queued and the order of another on the list, by a lockout and by its board. -/
theorem test_witness_falls :
    let s := onSched (fun c => { c with queue := [strikeOf .queued] }) fired
    let t := s.writeBell 0 { s.bell 0 with lockout := true }
    let u := s.boardEvent 1 false
    ((s.bell 0).available = true ∧ (∃ o ∈ s.body.bus.sendList, o.bell = 0) ∧
      (s.hammer 0).state = .ordered) ∧
    [t, u].map (fun v => (v.body.sched.queue, v.body.sched.discardedUnavailable, v.body.bus.sendList,
      v.body.bus.cancelledUnavailable, (v.hammer 0).state)) =
      List.replicate 2 ([], 1, [], 1, .idle) ∧
    [t, u].map (·.body.mail) = List.replicate 2 [.hammerFree 0, .considerHead] := by decide +kernel

theorem test_witness_DueStrikeIsBlockedFiredOrWaits :
    let s := queued [strikeOf .queued] 8 ringing
    let busy := queued [strikeOf .queued] 9 flying
    let blocked := onSched (fun c => { c with access := true }) s
    (s.rst.held = false ∧ s.body.sched.queue[0]? = some (strikeOf .queued) ∧ 8 ≤ s.now ∧
      s.body.sched.access = false ∧ (s.hammer 0).state = .idle ∧ ∀ o ∈ s.body.bus.sendList, o.bell ≠ 0) ∧
    (busy.body.sched.access = false ∧ (busy.hammer 0).state ≠ .idle) ∧
    blocked.body.sched.access = true ∧
    (queued [strikeOf .due] 8 ringing).body.sched.queue[0]? = some (strikeOf .due) := by decide +kernel

def orderAt (bell fire : Nat) : Order :=
  { bell := bell, board := 1, hammer := bell, pulse := 16, band := .soft, fire := fire, onLine := false }

/-- Orders of one fire instant stand by bell number; under Belfry Access an order is cancelled as it is taken;
orders cancelled together are all counted, and free their ORDERED hammers. -/
theorem test_takeOrder :
    let s := onBus (fun u => { u with sendList := [orderAt 0 5, orderAt 3 5, orderAt 1 6] }) fired
    let t := s.body.takeOrder 8 (orderAt 2 5)
    let barred := onBus (fun u => { u with access := true }) s0
    let u := s.body.cancelOrders .offline [orderAt 0 5, orderAt 1 6]
    t.bus.sendList.map (·.bell) = [0, 2, 3, 1] ∧
    (let v := barred.body.takeOrder 8 (orderAt 2 5)
     v.bus.sendList = [] ∧ v.bus.cancelledAccess = 1 ∧ v.bus.line = .idle) ∧
    (u.bus.sendList.map (·.bell) = [3] ∧ u.bus.cancelledOffline = 2 ∧ u.bus.line = .actuate 0 9 true ∧
      (u.hammer 0).state = .idle) := by decide +kernel

def testRequest (sounding : Nat) (player : Option Nat) : Request :=
  { bell := 0, force := 4, sounding := sounding, origin := .test, player := player,
    tunePosition := none, policy := .drop, slack := 0 }

theorem test_witness_AdmissionTakesSixSteps :
    let e := ringing.env
    let b := ringing.body
    let full := (queued (List.replicate 256 (strikeOf .queued)) 0 ringing).body
    ((e.bell 0).available = true ∧ b.holder 0 = none ∧ (s0.bell 0).available = false) ∧
    (b.spacing e 0 = none ∧ full.spacing e 0 = some 1808) ∧
    (b.occupancy < 256 ∧ full.occupancy = 256) ∧ b.sched.lateLimit = 320 ∧
    ((testRequest 809 none).sounding - ((e.bell 0).estimate .soft + 1) = 8 ∧
      (runTime 329 ringing).env.now = 8 + 321 ∧ (runTime 328 ringing).env.now = 8 + 320) ∧
    ((strikeOf .due).state = .due ∧ (strikeOf .queued).state = .queued) := by decide +kernel

theorem test_witness_AdmissionTakesSixSteps_spacing :
    let one := (queued [strikeOf .queued] 0 ringing).body
    (one.sched.queue = [] ++ strikeOf .queued :: [] ∧ one.projectedFree 0 = some 1808) ∧
    ((ringing.hammer 0).state = .idle ∧ (fired.hammer 0).state = .ordered) ∧
    ((flying.hammer 0).state = .drive ∧ (flying.hammer 0).send = some 9) ∧
    ((presumedState.hammer 0).state = .mask ∧ (presumedState.hammer 0).timerEnd ≠ none) ∧
    (flying.body.projectedFree 0 = none ∧ ringing.body.projectedEnd ringing.env 0 = none) ∧
    (let both := queued [strikeOf .queued] 9 flying
     both.body.projectedFree 0 = some 1808 ∧ both.body.projectedEnd both.env 0 ≠ none) := by
  decide +kernel

theorem test_witness_TestStrikeQueuesOneStrike :
    let full := queued (List.replicate 256 { strikeOf .queued with bell := 1 }) 0 ringing
    let spaced := queued [{ strikeOf .queued with clear := 9 }] 0 ringing
    let edge := queued [{ strikeOf .queued with clear := 8 }] 0 ringing
    let owned := onBody (fun b => b.setClaims { b.claims with
      holders := b.claims.holders.set 0 (some 1) }) ringing
    Heard ringing [0, 4] ∧ Heard s0 [0, 4] ∧ Heard full [0, 4] ∧ Heard spaced [0, 4] ∧
    Heard edge [0, 4] ∧ Heard owned [0, 4] ∧ parseTestStrike [0, 4] = some (0, 4) ∧
    ((ringing.bell 0).available = true ∧ ringing.body.sched.access = false ∧
      ringing.body.holder 0 = none) ∧
    (s0.bell 0).available = false ∧ owned.body.holder 0 ≠ none ∧
    (spaced.body.spacing spaced.env 0 = some 9 ∧ edge.body.spacing edge.env 0 = some 8) ∧
    (full.body.spacing full.env 0 = none ∧ full.body.occupancy = 256 ∧ ringing.body.occupancy < 256) := by
  refine ⟨?_, ?_, ?_, ?_, ?_, ?_, by decide +kernel⟩ <;> exact heard (by decide +kernel)

def setQueue (quota : Nat) : List Byte :=
  (List.replicate 7 quota).flatMap u8 ++ u16 1500 ++ u16 40

theorem test_witness_QueueSettingsAndBelfryAccess :
    let nine := queued (List.replicate 9 { strikeOf .queued with player := some 1 }) 0 s0
    Heard s0 (setQueue 8) ∧ Heard nine (setQueue 8) ∧
    parseSetQueue (setQueue 8) = some (List.replicate 7 8, 1500, 40) ∧
    nine.body.queuedCount 1 = 9 ∧ s0.body.queuedCount 1 ≤ 8 ∧ s0.rst.held = false ∧
    s0.body.sched.access = false ∧ s0.body.bus.access = false ∧
    (∃ o ∈ fired.body.bus.sendList, o.bell = 0) ∧
    (∀ o ∈ s0.body.bus.sendList, o.bell ≠ 0) ∧ (fired.body.bus.sendList.map (·.bell)).Nodup :=
  ⟨heard (by decide +kernel), heard (by decide +kernel), by decide +kernel⟩

/-- The settings event wakes the stalled players among 1 to 7, and no other. -/
theorem test_settingsEvent :
    let s := (onPlayer 0 (fun x => { x with state := .playing, generation := .stalled }) (onPlayer 7 (fun x =>
      { x with state := .playing, generation := .stalled }) s0)).body
    s.settingsEvent.mail = [.decide 7] := by decide +kernel

/-- R207's frames: a POLL of board 7, and the ACTUATE frame of the order that is on the line. -/
theorem test_frameOnLine :
    let sent := fun (b : Body) => b.frameOnLine.map fun c => (c.byte, c.mark)
    let marked := fun bytes : List Byte =>
      (bytes ++ word16 (crc16 bytes)).mapIdx fun i x => (x, decide (i = 0))
    sent (onBus (fun u => { u with line := .poll 7 2 }) s0).body = marked [39] ∧
    sent fired.body = marked [17, 0, 33] ∧
    sent (onBus (fun u => { u with line := .actuate 0 9 true }) fired).body = [] ∧ sent s0.body = [] := by
  decide +kernel

theorem test_witness_LineChoosesTheNextFrame :
    let waits := onBus (fun u => { u with waitingPoll := u.waitingPoll.set 0 true }) s0
    let both := fun n => onBus (fun u => { u with
      consecutive := n, waitingPoll := u.waitingPoll.set 0 true, line := .idle }) fired
    (s0.body.bus.line = .idle ∧ s0.body.nextPoll = none ∧ s0.body.bus.sendList = []) ∧
    fired.body.bus.line ≠ .idle ∧
    (waits.body.nextPoll = some 1 ∧ waits.body.bus.sendList = []) ∧
    ((both 16).body.nextPoll = some 1 ∧ 16 ≤ (both 16).body.bus.consecutive) ∧
    ((both 15).body.bus.sendList ≠ [] ∧ (both 15).body.bus.consecutive < 16) ∧
    (s0.rst.held = false ∧ s0.body.bus.nextRound ≤ s0.now) ∧
    (onBus (fun u => { u with line := .actuate 0 0 true }) s0).body.bus.line = .actuate 0 0 true := by
  decide +kernel

/-- The pointer at the last of seven boards: the search begins again at board 1. -/
theorem test_witness_LineChoosesTheNextFrame_polls :
    let s := onBus (fun u => { u with pointer := 7, waitingPoll := u.waitingPoll.set 2 true })
      (State.powerOn 7 false false)
    (s.body.port.boards = 7 ∧ s.body.nextPoll = some 3) ∧ s0.body.nextPoll = none ∧
    (s0.body.port.loading = false ∧ parseSetBus (u16 16) = some 16 ∧ parseSetBus (u16 400) = some 400) :=
  by decide +kernel

theorem test_witness_SendCompletionStartsTheFlight :
    let s := runTime 9 fired
    s.rst.held = false ∧ s.body.bus.line = .actuate 0 9 false ∧ 9 ≤ s.now ∧
    (s.hammer 0).state = .ordered ∧
    ((onHammer 0 (fun _ => Hammer.rest none) s).hammer 0).state = .idle := by decide +kernel

def polled (x : Board) : State :=
  onBus (fun u => { u with line := .poll 1 2, boards := u.boards.set 0 x }) (runTime 2 s0)

def replyOf (bytes : List Byte) : List BusChar :=
  (bytes ++ word16 (crc16 bytes)).map fun x => { byte := x, mark := false, framed := true }

theorem test_witness_PollWindowIsJudged :
    (polled Board.fresh).rst.held = false ∧ (polled Board.fresh).body.bus.line = .poll 1 2 ∧
    2 ≤ (polled Board.fresh).now ∧ readReply 1 [] = none ∧
    ((polled { Board.fresh with online := true, missedRun := 7 }).board 1).missedRun = 7 ∧
    (readReply 1 (replyOf [1, 0, 0])).isSome = true ∧
    ((polled { Board.fresh with replyRun := 1 }).board 1).replyRun = 1 ∧
    s0.bellAt 1 0 = some 0 ∧ s0.bellAt 7 0 = none := by decide +kernel

theorem test_witness_PollWindowIsJudged_reply :
    ((s0.bell 7).present = true ∧ (s0.bell 7).placement = some (1, 7) ∧ 7 < s0.bells.length) ∧
    (∀ i < 56, ¬ ((s0.bell i).present = true ∧ (s0.bell i).placement.map (·.1) = some 7)) ∧
    ((s0.bell 55).present = false ∧ (s0.bell 55).placement = some (7, 7)) ∧
    ((readReply 1 (replyOf ([1, 255, 4] ++ List.replicate 8 127))).map fun r => r.reports.length) =
      some 4 ∧
    ((readReply 1 (replyOf [1, 0, 128])).map (·.overflow)) = some true ∧
    readReply 1 (replyOf ([1, 0, 5] ++ List.replicate 10 0)) = none ∧
    readReply 1 (replyOf [1, 0, 1, 128, 0]) = none := by decide +kernel

def tolling : State := after (.playNow tollPayload) ringing

theorem test_witness_ClaimsAndGeneration :
    let claiming := onBody (fun b => b.setClaim 1 { b.claim 1 with
      state := .pendingClaim, deadline := some 0 }) s0
    let near := runTime 4000 tolling
    let perf := (tolling.body.player 1).perf
    (claiming.rst.held = false ∧ (claiming.body.claim 1).state = .pendingClaim ∧
      (claiming.body.claim 1).deadline = some 0 ∧ 0 ≤ claiming.now) ∧
    (near.rst.held = false ∧ (near.body.player 1).state = .playing ∧
      (near.body.player 1).generation = .stalled ∧ (near.body.player 1).wake = some 4000 ∧
      4000 ≤ near.now) ∧
    (perf.map (·.nextSounding) = some (some 16000) ∧ tolling.now + tolling.body.sched.horizon < 16000 ∧
      ¬ near.now + near.body.sched.horizon < 16000 ∧
      near.body.queuedCount 1 < near.body.quota 1 ∧ near.body.tuneTotal < 224) ∧
    (queued (List.replicate 64 { strikeOf .queued with player := some 1 }) 4000 tolling).body.queuedCount 1
      = 64 ∧
    (queued (List.replicate 224 { strikeOf .queued with player := some 2 }) 4000 tolling).body.tuneTotal
      = 224 := by decide +kernel

/-- A claim of bell 0, and bell 0 held by player 2 with a claim of this kind and priority. -/
def claimOf (kind : ClaimKind) (priority : Nat) (preemptive : Bool) (wait : Option Nat) : ClaimBody :=
  { bells := [0], kind := kind, priority := priority, preemptive := preemptive, waitLimit := wait }

def heldBy2 (kind : ClaimKind) (priority : Nat) : Body :=
  let b := s0.body
  (b.setClaims { b.claims with holders := b.claims.holders.set 0 (some 2) }).setClaim 2
    { body := some (claimOf kind priority false none), deadline := none, claimInstant := some 0,
      grantInstant := some 0, state := .granted }

/-- Player 1 asks for bell 0, in this claim state, waiting on it or not. -/
def asking (c : ClaimBody) (x : ClaimState) (waits : Bool) (b : Body) : Body :=
  let b := b.setClaim 1 { body := some c, deadline := none, claimInstant := some 0,
                          grantInstant := none, state := x }
  if waits then b.joinWaiting 1 0 else b

theorem test_witness_ClaimsAndGeneration_claims :
    let whole := claimOf .whole 3 true (some 1)
    let part := claimOf .partialClaim 3 false none
    -- a bell that is free, held by a claim that yields, and by one that does not
    (s0.body.holder 0 = none ∧ (heldBy2 .whole 4).holder 0 = some 2 ∧ whole.priority = 3 ∧
      (heldBy2 .whole 4).claimPriority 2 = 4 ∧ (heldBy2 .whole 3).claimPriority 2 = 3) ∧
    (whole.waitLimit = some 1 ∧ (claimOf .whole 3 true (some 0)).waitLimit = some 0 ∧
      part.waitLimit = none) ∧
    -- the holder's claim, WHOLE or PARTIAL, made or not
    (((heldBy2 .whole 4).claim 2).body.map (·.kind) = some .whole ∧
      ((heldBy2 .partialClaim 4).claim 2).body.map (·.kind) ≠ some .whole ∧
      ((heldBy2 .whole 4).claim 2).state ≠ .noClaim ∧ (s0.body.claim 2).state = .noClaim) ∧
    -- candidates
    ((asking whole .pendingClaim false s0.body).claim 1).state = .pendingClaim ∧
    (asking whole .pendingClaim false s0.body).candidates [0] = [1] ∧
    (asking part .partGranted true s0.body).candidates [0] = [1] ∧
    (asking part .partGranted true s0.body).waitingOn 0 = [1] ∧
    (asking part .partGranted false s0.body).candidates [0] = [] := by decide +kernel

/-- Bell 0 on pitch 60, held by player 1, and a READY slot of two records: pitch 60, then pitch 62 with no
force. -/
def tuned : State :=
  let p := [60, 0x80, 0, 62, 0x01, 4]
  let s := after (.openTune (u8 5 ++ u16 2 ++ u8 12 ++ u8 0 ++ u16 0)) ringing
  let s := after (.writeTune (u8 5 ++ u16 0 ++ u8 2 ++ p)) s
  let s := after (.closeTune (u8 5 ++ word16 (crc16 p))) s
  onBody (fun b => b.setClaims { b.claims with holders := b.claims.holders.set 0 (some 1) })
    { s with mapA := s.mapA.set 60 { primary := some 0, alternate := none } }

def tunePerf (record remaining : Nat) : Performance :=
  { origin := .playNow, mode := .single, slot := some 5, map := some .a, transposition := 0,
    forceOffset := 0, tickPeriod := some 96, passesRemaining := remaining, passNumber := 0,
    recordIndex := record, tickPosition := 0, toll := none, strokeIndex := 0, anchor := some 16000,
    nextSounding := some 16000, claimKind := .whole, priority := 0, preemptive := false,
    waitLimit := some 0, policy := .drop, slack := 100 }

theorem test_witness_ClaimsAndGeneration_generation :
    let e := tuned.env
    let note := fun i => noteOf (e.memory.recordBytes (tuned.body.slot 5).blocks i)
    (note 0 = { pitch := 60, force := 8, delay := 0 } ∧
      note 1 = { pitch := 62, force := 0, delay := 260 }) ∧
    (tuned.body.lookup e 1 .a 60 = some 0 ∧ tuned.body.lookup e 1 .a 61 = none ∧
      tuned.body.lookup e 2 .a 60 = none) ∧
    ((tuned.body.slot 5).length = some 2 ∧ (tunePerf 1 0).passesRemaining = 0 ∧
      0 < (tunePerf 1 255).passesRemaining ∧ (tuned.body.player 1).finish = false) ∧
    ((tolling.body.player 1).perf.bind (·.toll)).map (·.strokes) = some 1 ∧
    ((tolling.env.bell 0).available = true ∧ tolling.body.holder 0 = some 1 ∧
      s0.body.holder 0 = none) := by decide +kernel

theorem test_witness_LaunchesStopsAndEnds_players :
    let tune := fun slot => Piece.tune slot .a 0 0 (some 96) 0
    let claiming := (onPlayer 1 (fun x => { x with state := .claiming, perf := some (tunePerf 0 0) })
      tuned).body
    let console := (onPlayer 0 (fun x => { x with state := .claiming, perf := some (tunePerf 0 0) })
      tuned).body
    let tollClaiming := (onPlayer 1 (fun x => { x with state := .claiming }) tolling).body
    -- launches
    ((tuned.body.player 1).state = .free ∧ (tolling.body.player 1).state ≠ .free) ∧
    (tune 5 = .tune 5 .a 0 0 (some 96) 0 ∧ (tuned.body.slot 5).state = .ready ∧
      (tuned.body.slot 6).state ≠ .ready ∧ (tuned.body.slot 5).tempo = some (12, 0)) ∧
    -- claim sets: a primary that may be struck, an alternate that may, neither
    ((tuned.env.entryOf .a 60).primary = some 0 ∧ (tuned.env.bell 0).available = true ∧
      (tuned.env.bell 1).available = false ∧ (tuned.env.entryOf .a 61).primary = none) ∧
    -- grants: late at a grant 12,001 eighths before the anchor, in time at 12,000
    ((claiming.player 1).perf = some (tunePerf 0 0) ∧ (claiming.player 1).state = .claiming ∧
      claiming.cal.margin = 500 ∧ 16000 < 12001 + 8 * 500 ∧ ¬ 16000 < 12000 + 8 * 500) ∧
    ((console.player 0).state = .claiming ∧ (tuned.body.player 1).state ≠ .claiming) ∧
    (((tollClaiming.player 1).perf.bind (·.toll)).isSome = true ∧
      (tollClaiming.player 1).state = .claiming) ∧
    -- removals: a draining player with nothing queued
    ((onPlayer 1 (fun x => { x with state := .draining }) tolling).body.queuedCount 1 = 0) := by
  decide +kernel

/-- A last stroke that is due as it is admitted: discarded BLOCKED it leaves the outcome COMPLETED-PARTIAL, handed
off COMPLETED. An abort finds an earlier discard, and not a withdrawal. -/
theorem test_lostBeforeTheEnd :
    let due := runTime 15199 tolling
    let outcome := fun s => ((after (.playerWake 1) s).body.player 1).lastOutcome
    let waits := fun way => (({ tolling.body with mail := [.removal 1 way 0 0] } : Body).abort 1).1
    outcome due = some .completed ∧
    outcome (onSched (fun c => { c with access := true }) due) = some .completedPartial ∧
    (after (.playerWake 1) (onSched (fun c => { c with access := true }) due)).body.mail = [] ∧
    ((waits .blocked).player 1).lost = true ∧ ((waits .withdrawn).player 1).lost = false := by decide +kernel

/-- A drain with the removal event of the player's last strike still to be taken, and that event taken. -/
theorem test_witness_LaunchesStopsAndEnds_drain :
    let b : Body := { tolling.body with mail := [.removal 1 .late 0 0] }
    let t := b.drain 0 1
    (b.queuedCount 1 = 0 ∧ ¬ b.drained 1 ∧ tolling.body.drained 1) ∧ (t.player 1).state = .draining ∧
    ((Body.takeRemoval tolling.env { t with mail := [] } 1 .late 0).player 1).lastOutcome =
      some .completedPartial := by decide +kernel

theorem test_witness_LaunchesStopsAndEnds :
    let busy := onPlayer 1 (fun x => { x with state := .playing }) ringing
    let full := onBody (fun b => { b with players := b.players.map fun x => { x with state := .playing } })
      ringing
    let tune := u8 1 ++ u8 0 ++ tollPayload.drop 2
    let hourly := (tollPayload.set 10 0)
    let named := tollPayload.set 0 1
    Heard ringing tollPayload ∧ Heard ringing tune ∧ Heard ringing hourly ∧ Heard busy named ∧
    Heard full tollPayload ∧ Heard busy tollPayload ∧ Heard ringing [1, 0] ∧ Heard tolling [1, 0] ∧
    Heard tolling [1, 1] ∧
    ((parsePlayNow tune).map fun x => (x.1, x.2.1, x.2.2.slot)) = some (some 1, .tune, 0) ∧
    (ringing.body.slot 0).state ≠ .ready ∧
    ((parsePlayNow hourly).map fun x => (x.2.1, x.2.2.strokes)) = some (.toll, none) ∧
    ringing.time.tower = none ∧
    ((parsePlayNow named).map fun x => (x.1, x.2.1, x.2.2.strokes)) = some (some 1, .toll, some 1) ∧
    (busy.body.player 1).state ≠ .free ∧ (busy.body.player 2).state = .free ∧
    (∀ q < 8, (full.body.player q).state ≠ .free) ∧ (ringing.body.player 1).state = .free ∧
    parseStopPlayer [1, 0] = some (1, .stop) ∧ parseStopPlayer [1, 1] = some (1, .finish) ∧
    (tolling.body.player 1).state ≠ .free := by
  refine ⟨?_, ?_, ?_, ?_, ?_, ?_, ?_, ?_, ?_, by decide +kernel⟩ <;> exact heard (by decide +kernel)

def openLong : List Byte := u8 5 ++ u16 4096 ++ u8 12 ++ u8 0 ++ u16 0

theorem test_witness_TuneSlotCommands :
    let inUse := onSlot 5 (fun x => { x with state := .ready, users := 1 }) s0
    let crowded := onSlot 6 (fun x => { x with blocks := List.range 193 }) s0
    let edge := onSlot 6 (fun x => { x with blocks := List.range 192 }) s0
    Heard s0 openLong ∧ Heard inUse openLong ∧ Heard crowded openLong ∧ Heard edge openLong ∧
    Heard s0 [5, 0, 0] ∧ Heard opened [5, 0, 0] ∧ Heard written [5, 0, 0] ∧
    Heard written (u8 5 ++ word16 (crc16 [60, 0x80, 0, 62, 0x81, 4])) ∧ Heard s0 (u8 63) ∧
    Heard inUse (u8 5) ∧
    parseOpenTune openLong = some { slot := 5, length := 4096, m := 12, n := 0, gap := 0 } ∧
    0 < (inUse.body.slot 5).users ∧ (crowded.body.freeBlocks.length = 63 ∧
      edge.body.freeBlocks.length = 64) ∧
    parseCloseTune [5, 0, 0] = some (5, 0) ∧ (s0.body.slot 5).state ≠ .writing ∧
    (opened.body.slot 5).written.getD 0 < (opened.body.slot 5).length.getD 0 ∧
    ((written.body.slot 5).state = .writing ∧ (written.body.slot 5).written = some 2 ∧
      (written.body.slot 5).length = some 2) ∧ (s0.body.slot 63).users = 0 := by
  refine ⟨?_, ?_, ?_, ?_, ?_, ?_, ?_, ?_, ?_, ?_, by decide +kernel⟩ <;> exact heard (by decide +kernel)

/-- A record's fields, and what CLOSE-TUNE gathers from records. -/
theorem test_records :
    noteOf [60, 0x81, 4] = { pitch := 60, force := 8, delay := 260 } ∧
    pitchSet [[62, 0x80, 0], [60, 0x81, 4], [95, 0x0f, 255]] = [60, 62] ∧
    totalTicks [[62, 0x80, 0], [60, 0x81, 4], [95, 0x0f, 255]] = 260 + 4095 ∧
    opened.body.freeBlocks.head? = some 1 ∧ opened.body.otherWriting 6 = some 5 ∧
    opened.body.otherWriting 5 = none := by decide +kernel

theorem test_witness_WriteTuneStoresOnlyItsRecords :
    let one := u8 5 ++ u16 0 ++ u8 1 ++ [60, 0x80, 0]
    let later := u8 5 ++ u16 1 ++ u8 1 ++ [60, 0x80, 0]
    let three := u8 5 ++ u16 0 ++ u8 3 ++ [60, 0x80, 0, 60, 0x80, 0, 60, 0x80, 0]
    let two := u8 5 ++ u16 0 ++ u8 2 ++ [60, 0x80, 0, 60, 0x80, 0]
    let offset := fun p => (parseWriteTune p).map fun x => (x.1, x.2.1, x.2.2.length)
    Heard s0 one ∧ Heard opened later ∧ Heard opened three ∧ Heard opened two ∧
    (offset one = some (5, 0, 1) ∧ offset later = some (5, 1, 1) ∧ offset three = some (5, 0, 3) ∧
      offset two = some (5, 0, 2)) ∧
    (s0.body.slot 5).state ≠ .writing ∧
    ((opened.body.slot 5).state = .writing ∧ (opened.body.slot 5).written = some 0 ∧
      (opened.body.slot 5).length = some 2 ∧ (opened.body.slot 5).blocks.Nodup ∧
      0 + 2 ≤ 64 * (opened.body.slot 5).blocks.length ∧ Memory.wf opened.memory = true) := by
  refine ⟨?_, ?_, ?_, ?_, by decide +kernel⟩ <;> exact heard (by decide +kernel)

theorem test_witness_WriteMapWritesTheEntriesNamed :
    Heard s0 [0, 95, 1, 55, 255] ∧ Heard s0 [1, 0, 1, 0, 1] ∧
    parseWriteMap [0, 95, 1, 55, 255] = some (.a, 95, [{ primary := some 55, alternate := none }]) ∧
    parseWriteMap [1, 0, 1, 0, 1] = some (.b, 0, [{ primary := some 0, alternate := some 1 }]) ∧
    s0.mapA.length = 96 ∧ s0.mapB.length = 96 ∧ s0.body.con.settings.map = .a :=
  ⟨heard (by decide +kernel), heard (by decide +kernel), by decide +kernel⟩

/-- A DAILY toll at noon on every weekday. -/
def dailyToll : List Byte :=
  u8 0 ++ u8 1 ++ (u8 1 ++ u16 0 ++ u8 127 ++ u8 12 ++ u8 0 ++ u8 0 ++ u8 0 ++ u8 0) ++ u8 0 ++
    tollPayload.drop 2 ++ u8 0

def entryWritten : State := after (.writeEntry (u8 47 ++ dailyToll)) s0

def running (n : Nat) : State := onEntry n (fun x => { x with active := some 1 }) entryWritten

theorem test_witness_EntryCommands :
    Heard s0 (u8 47 ++ dailyToll) ∧ Heard (running 47) (u8 47 ++ dailyToll) ∧ Heard s0 (u8 47) ∧
    Heard entryWritten (u8 47) ∧ Heard (running 47) (u8 47) ∧
    Heard s0 (u16 2000 ++ u16 600 ++ u16 100) ∧
    ((parseWriteEntry (u8 47 ++ dailyToll)).map fun x => (x.1, x.2.1)) = some (47, true) ∧
    (s0.body.entry 47).active = none ∧ ((running 47).body.entry 47).active ≠ none ∧
    (s0.body.entry 47).fields = none ∧ (entryWritten.body.entry 47).fields ≠ none ∧
    parseSetCalendar (u16 2000 ++ u16 600 ++ u16 100) = some (2000, 600, 100) := by
  refine ⟨?_, ?_, ?_, ?_, ?_, ?_, by decide +kernel⟩ <;> exact heard (by decide +kernel)

theorem test_witness_NextOccurrenceIsTheEarliest :
    (entryWritten.body.entry 47).nextOccurrence noon = some { day := 8, ms := 43200000 } ∧
    ((entryWritten.body.entry 47).fields.map fun f =>
      (f.recurrence.hour, f.recurrence.minute, f.recurrence.second)) = some (12, 0, 0) ∧
    (s0.body.entry 0).fields = none ∧ (s0.body.entry 0).enabled = false := by decide +kernel

/-- With the last fired occurrence on the last day there is none left. -/
theorem test_witness_NextOccurrenceIsTheEarliest_none :
    let x := { entryWritten.body.entry 47 with lastFired := some { day := 65535, ms := 43200000 } }
    x.nextOccurrence noon = none ∧ x.enabled = true ∧ x.fields ≠ none := by decide +kernel

def launching (n : Nat) : State :=
  onEntry n (fun x => { x with next := some { day := 7, ms := 43202000 } })
    (tower noon 0 .holdover entryWritten)

theorem test_witness_OccurrencesAndChangesOfTime :
    let s := launching 47
    let full := onBody (fun b => { b with players := b.players.map fun x => { x with state := .playing } }) s
    s.rst.held = false ∧ s.body.port.loading = false ∧
    (s.body.entry 47).next = some { day := 7, ms := 43202000 } ∧ s.time.tower = some noon ∧
    7 * 86400000 + 43202000 ≤ 7 * 86400000 + 43200000 + s.body.cal.preRoll ∧
    47 < s.body.cal.entries.length ∧ (s.body.entry 47).fields ≠ none ∧
    ((running 47).body.entry 47).active = some 1 ∧
    ((s.body.entry 47).active = none ∧ s.body.anyPlayer = some 1 ∧ (s.body.player 1).state = .free ∧
      full.body.anyPlayer = none ∧ (full.body.player 1).state ≠ .free) ∧
    ((s.body.entry 47).fields.map fun f => (f.kind, f.player)) = some (.toll, none) ∧
    (s.body.slot 0).state ≠ .ready := by decide +kernel

/-- A daily toll at noon: a step from three seconds before noon to noon skips one occurrence, and one to noon
of the next day skips two. -/
theorem test_witness_OccurrencesAndChangesOfTime_steps :
    let b := entryWritten.body
    let early : TowerTime := { noon with ms := 43197000 }
    (loading.body.port.loading = true ∧ b.port.loading = false) ∧
    (noon.day * 86400000 + early.ms < noon.day * 86400000 + noon.ms) ∧
    (b.skipped early noon (b.entry 47) = [{ day := 7, ms := 43200000 }] ∧
      noon.ms - early.ms ≤ b.cal.catchUp * 1000) ∧
    b.skipped early { noon with day := 8, weekday := 4 } (b.entry 47) =
      [{ day := 7, ms := 43200000 }, { day := 8, ms := 43200000 }] ∧
    ((launching 47).time.tower = some noon ∧
      (launching 47).body.anchorFor (launching 47).env { day := 7, ms := 43202000 } true = (16000, false) ∧
      (launching 47).body.anchorFor (launching 47).env { day := 7, ms := 43200499 } true = (4000, true) ∧
      (launching 47).body.anchorFor (launching 47).env { day := 7, ms := 43200500 } true =
        (4000, false)) := by decide +kernel

theorem test_witness_ConsoleEventsArrive :
    let full := onCon (fun c => { c with fifo := List.replicate 64 { kind := .close, arrival := 0 } }) s0
    let begun := fun rx => onCon (fun c => { c with rx := rx }) s0
    s0.rst.held = false ∧ s0.body.con.fifo.length < 64 ∧ full.body.con.fifo.length = 64 ∧
    ((95 : Byte).toNat ≤ 95 ∧ 1 ≤ (1 : Byte).toNat ∧ (15 : Byte).toNat ≤ 15) ∧
    (95 < (96 : Byte).toNat ∧ (0 : Byte).toNat = 0 ∧ 15 < (16 : Byte).toNat) ∧
    s0.body.con.rx = [] ∧ (127 : Byte).toNat < 128 ∧
    ((133 : Byte) ∉ ([129, 130, 131, 132] : List Byte) ∧ 128 ≤ (133 : Byte).toNat) ∧
    ((begun [130]).body.con.rx.length < 3 ∧ (begun [130, 0, 0]).body.con.rx.length = 3 ∧
      (begun [129]).body.con.rx.length = 1) := by decide +kernel

def live : State := after .consoleOpen s0

def keyed : State :=
  onCon (fun c => { c with fifo := [{ kind := .key 60 4, arrival := 0 }], inFlight := true }) live

def setConsole (hold : Nat) : List Byte :=
  u8 0 ++ u8 2 ++ u8 1 ++ u8 0 ++ u16 300 ++ u16 100 ++ u8 0 ++ u8 hold ++ u8 16

/-- R205's frames, each with the check byte of R206; and a fall and a rise of a bell in a session. -/
theorem test_reports_and_lamps :
    [Report.refused, .session .live none, .lamp 95 .held].map Report.frame =
      [[145, 17], [144, 1, 0, 17], [146, 95, 1, 76]] ∧
    (let mapped : State := { live with mapA := live.mapA.set 60 { primary := some 0, alternate := none } }
     let held := onBody (fun b => b.setClaims { b.claims with holders := b.claims.holders.set 0 (some 0) }) mapped
     let up := held.writeBell 0 { held.bell 0 with calibrated := true, boardOnline := true }
     let down := up.writeBell 0 { up.bell 0 with lockout := true }
     live.body.con.session ≠ .off ∧ up.body.con.lamps.getD 60 .lost = .held ∧
       down.body.con.lamps.getD 60 .held = .lost) := by decide +kernel

theorem test_witness_SessionCommandsAndKeys :
    let closing := onCon (fun c => { c with session := .closing }) live
    let mapped : State := { keyed with mapA := keyed.mapA.set 60 { primary := some 0, alternate := none } }
    let bound := onBell 0 (fun r => { r with available := true }) (onBody (fun b =>
      b.setClaims { b.claims with holders := b.claims.holders.set 0 (some 0) }) mapped)
    Heard s0 (setConsole 48) ∧ Heard live (setConsole 48) ∧ Heard live (setConsole 64) ∧
    ((parseSetConsole (setConsole 48)).map fun c => (c.hold, c.resume, c.map)) = some (48, 16, .a) ∧
    ((parseSetConsole (setConsole 64)).map fun c => c.hold) = some 64 ∧
    live.body.con.settings.hold = 48 ∧ s0.body.con.session = .off ∧ live.body.con.session = .live ∧
    closing.body.con.session = .closing ∧ live.rst.held = false ∧ live.body.port.loading = false ∧
    (live.body.con.lastByte = some 0 ∧ 0 + 40000 ≤ (runTime 40000 live).now) ∧
    (keyed.body.con.inFlight = true ∧ (keyed.body.player 0).state = .playing ∧
      (keyed.body.player 0).perf ≠ none ∧ keyed.body.lookup keyed.env 0 .a 60 = none ∧
      bound.body.lookup bound.env 0 .a 60 = some 0) ∧
    (onCon (fun c => { c with inFlight := false }) keyed).body.con.inFlight = false ∧
    ((onPlayer 0 (fun x => { x with state := .claiming }) keyed).body.player 0).state ≠ .playing ∧
    s0.body.con.sending = some (.session .off none) ∧
    (let c := { s0.body.con with sending := none }
     c.sentState ≠ some (c.session, none) ∧ c.refusedOwed = false) := by
  refine ⟨?_, ?_, ?_, by decide +kernel⟩ <;> exact heard (by decide +kernel)

theorem test_witness_ConsoleEventsArrive_head :
    let head := fun (k : ConsoleKind) (s : State) =>
      (onCon (fun c => { c with fifo := [{ kind := k, arrival := 0 }] }) s).body
    ((head .openSession s0).con.session = .off ∧ (head .openSession s0).con.settings.enable = true ∧
      (head .openSession s0).port.loading = false) ∧
    ((head .openSession live).con.session ≠ .off ∧ (head .close s0).con.session ≠ .live ∧
      (head .close live).con.session = .live ∧ s0.body.con.fifo = []) ∧
    (keyed.body.con.inFlight = true ∧ (head (.key 60 4) live).con.inFlight = false ∧
      (head (.key 60 4) live).con.session = .live ∧ (head (.key 60 4) s0).con.session ≠ .live) ∧
    (live.body.occupancy < 256 ∧
      (queued (List.replicate 256 (strikeOf .queued)) 0 live).body.occupancy = 256) := by
  decide +kernel

/-- What is owed: a refusal, the state, the lamp of the last pitch, nothing. -/
theorem test_witness_SessionCommandsAndKeys_reports :
    let c := { live.body.con with sending := none }
    let told := { c with sentState := some (.live, none) }
    let lit := { told with lamps := told.sentLamps.set 95 .held }
    ({ c with refusedOwed := true }.transmit.sending = some .refused) ∧
    (c.refusedOwed = false ∧ c.sentState ≠ some (.live, none) ∧ c.session = .live) ∧
    ({ told with lamps := told.sentLamps }.transmit.sending = none) ∧
    (lit.refusedOwed = false ∧ (∀ j < 95, lit.lamps.getD j .lost = lit.sentLamps.getD j .lost) ∧
      lit.lamps.getD 95 .lost ≠ lit.sentLamps.getD 95 .lost ∧
      lit.transmit.sending = some (.lamp 95 .held)) ∧
    (live.body.con.session ≠ .off ∧ s0.body.con.session = .off) := by decide +kernel

theorem test_witness_HandedEventsAreTakenInTurn :
    let due := (queued [strikeOf .queued, strikeOf .due] 9 ringing).body
    let behind := { s0.body with mail := [.occurrence 3, .considerHead] }
    let reached := launching 47
    (due.sched.access = false ∧ (due.hammer 0).state = .idle ∧ due.orderOf 0 = none ∧
      due.sched.queue = [strikeOf .queued] ++ strikeOf .due :: [] ∧
      (due.handle ringing.env (.hammerFree 0)).sched.queue = [strikeOf .queued]) ∧
    (fired.hammer 0).state ≠ .idle ∧ (∀ k ∈ s0.body.sched.queue, k.state ≠ .due) ∧
    (live.body.con.session ≠ .off ∧ s0.body.con.session = .off) ∧
    (reached.body.occurrenceDue reached.env 47 = true ∧ s0.body.occurrenceDue s0.env 47 = false ∧
      s0.body.mail = []) ∧
    behind.mail = .occurrence 3 :: [.considerHead] ∧
    (({ behind with mail := [.considerHead] } : Body).handle s0.env (.occurrence 3)).mail =
      [.considerHead, .occurrence 3] := by decide +kernel

theorem test_witness_PortTransactionsAndNotices_frames :
    let waits := onPort (fun p => { p with response := some { status := .empty, payload := [] } }) s0
    s0.clockedOut 2 = [255, 255] ∧ heldPart.rst.held = true ∧ heldPart.clockedOut 1 = [255] ∧
    waits.clockedOut 5 = [11, 0] ++ word16 (crc16 [11, 0]) ++ [255] ∧
    parseStopPlayer [7, 1] = some (7, .finish) ∧ parseEndConsole [1] = some .cut ∧
    commandNamed 81 [7, 0] = some (.stopPlayerStop [7, 0]) ∧ commandNamed 15 [] = none ∧
    commandNamed 127 [] = some (.identify []) ∧
    transactionRow [255, 255] = .readTransaction 2 ∧ transactionRow [] = .readTransaction 0 ∧
    transactionRow [16] = .badFrameRequest [16] ∧
    transactionRow (requestFrame 127 []) = .identify [] ∧
    transactionRow (requestFrame 15 [1]) = .unknownCommand 15 [1] := by decide +kernel

/-- A notice whose flag is not enabled does not assert NOTICE. -/
theorem test_notice :
    let p := s0.body.port
    (p.ready, p.notice) = (false, false) ∧ (p.raise .configError).notice = true ∧
    ({ p.raise .configError with enabled := BitVec.allOnes 13 ^^^ 4096 } : Port).notice = false ∧
    (p.raise .configError).pendingFlags = 4096 ∧ crc16 [] = 65535 := by decide +kernel

theorem test_witness_PortTransactionsAndNotices :
    let waits := onPort (fun p => { p with response := some { status := .ok, payload := [] } }) s0
    s0.rst.held = false ∧ s0.body.port.response = none ∧
    waits.body.port.response = some { status := .ok, payload := [] } ∧ 0 + 4 ≤ 4 ∧ 3 < 0 + 4 ∧
    frameGood [0] = false ∧ (∃ x ∈ ([0] : List Byte), x ≠ 255) ∧
    frameGood ([17, 0] ++ word16 (crc16 [17, 0])) = true ∧ (255 : Byte).toNat ∉ commandBytes ∧
    Heard s0 (u16 (BitVec.allOnes 13).toNat) :=
  ⟨by decide, by decide, by decide +kernel, by decide, by decide, by decide +kernel, by decide,
    by decide +kernel, by decide, heard (by decide +kernel)⟩

end Sys2Proof.Tests
end

section
/-! SUPPORT. The snapshot of the Time Base (R14, R15): what a request that refuses or writes the Time Base alone
comes to, what SNAPSHOT and READ-SNAPSHOT do with and without a held snapshot, and that a reset leaves none. -/

namespace Sys2Proof.Machine

set_option Elab.async false

/-! ### A request's arrival and its answer -/

section Arrival

variable {s : State} {p : List Byte}

/-- A request's arrival changes the port alone, so the Time Base may be written before it or after. -/
theorem State.heard_setTime (s : State) (t : TimeBase) (p : List Byte) :
    (s.setTime t).heard p = (s.heard p).setTime t := rfl

theorem Heard.setTime (h : Heard s p) (t : TimeBase) : Heard (s.setTime t) p :=
  ⟨h.free, h.fits, h.operating⟩

/-- A part that has answered a request hears the next one. -/
theorem Heard.answer (h : Heard s p) (q : List Byte) (r : Response) : Heard (s.answer q r) p :=
  ⟨h.free, h.fits, h.operating⟩

end Arrival

section Owner

variable {α : Type} {s : State} {p : List Byte} {parse : List Byte → Option α}
  {owner : State → α → State × Response} {x : α}

/-- A request that its owner refuses is answered and changes nothing else. -/
theorem State.request_refused {status : Status} (h : Heard s p) (hp : parse p = some x)
    (ho : owner (s.heard p) x = (s.heard p).refuse status) :
    s.request p parse owner = .next (s.answer p (.refuse status)) := by
  rw [State.request_heard h hp, ho]
  rfl

/-- A request whose owner writes the Time Base alone is the Time Base written and the request answered. -/
theorem State.request_writesTime {t : TimeBase} {bytes : List Byte} (h : Heard s p)
    (hp : parse p = some x) (ho : owner (s.heard p) x = ((s.heard p).setTime t).done bytes) :
    s.request p parse owner = .next ((s.setTime t).answer p (.done bytes)) := by
  rw [State.request_heard h hp, ho, State.answer, State.heard_setTime]
  rfl

end Owner

theorem parseNothing_nil : parseNothing [] = some () := rfl

/-! ### What the owner does -/

variable {s : State}

theorem State.ownSnapshot_empty (hs : s.time.snapshot = none) :
    s.ownSnapshot = (s.setTime { s.time with snapshot := some s.time.picture }).done [] := by
  simp [State.ownSnapshot, hs]

theorem State.ownSnapshot_held {x : Snapshot} (hs : s.time.snapshot = some x) :
    s.ownSnapshot = s.refuse .ignored := by
  simp [State.ownSnapshot, hs]

theorem State.ownReadSnapshot_empty (hs : s.time.snapshot = none) :
    s.ownReadSnapshot = s.refuse .empty := by
  simp [State.ownReadSnapshot, hs]

theorem State.ownReadSnapshot_held {x : Snapshot} (hs : s.time.snapshot = some x) :
    s.ownReadSnapshot = (s.setTime { s.time with snapshot := none }).done x.bytes := by
  simp [State.ownReadSnapshot, hs]

/-! ### What the two commands do -/

theorem exec_snapshot (p : List Byte) (s : State) :
    exec (.snapshot p) s = s.request p parseNothing fun s _ => s.ownSnapshot := rfl

theorem exec_readSnapshot (p : List Byte) (s : State) :
    exec (.readSnapshot p) s = s.request p parseNothing fun s _ => s.ownReadSnapshot := rfl

/-- R14: an empty snapshot latches the Time Base as it stands. -/
theorem exec_snapshot_empty (h : Heard s []) (hs : s.time.snapshot = none) :
    exec (.snapshot []) s = .next
      ((s.setTime { s.time with snapshot := some s.time.picture }).answer [] (.done [])) := by
  rw [exec_snapshot]
  exact State.request_writesTime h parseNothing_nil (State.ownSnapshot_empty (s := s.heard []) hs)

/-- R14: a held snapshot stays. -/
theorem exec_snapshot_held {x : Snapshot} (h : Heard s []) (hs : s.time.snapshot = some x) :
    exec (.snapshot []) s = .next (s.answer [] (.refuse .ignored)) := by
  rw [exec_snapshot]
  exact State.request_refused h parseNothing_nil (State.ownSnapshot_held (s := s.heard []) hs)

/-- R15: no snapshot is held. -/
theorem exec_readSnapshot_empty (h : Heard s []) (hs : s.time.snapshot = none) :
    exec (.readSnapshot []) s = .next (s.answer [] (.refuse .empty)) := by
  rw [exec_readSnapshot]
  exact State.request_refused h parseNothing_nil (State.ownReadSnapshot_empty (s := s.heard []) hs)

/-- R15: the held snapshot is returned, and the snapshot is empty again. -/
theorem exec_readSnapshot_held {x : Snapshot} (h : Heard s []) (hs : s.time.snapshot = some x) :
    exec (.readSnapshot []) s = .next
      ((s.setTime { s.time with snapshot := none }).answer [] (.done x.bytes)) := by
  rw [exec_readSnapshot]
  exact State.request_writesTime h parseNothing_nil (State.ownReadSnapshot_held (s := s.heard []) hs)

/-- R14: after a SNAPSHOT into an empty snapshot the picture of the Time Base is held. -/
theorem exec_snapshot_latches (h : Heard s []) (hs : s.time.snapshot = none) :
    ∃ u, exec (.snapshot []) s = .next u ∧ u.time.snapshot = some s.time.picture :=
  ⟨_, exec_snapshot_empty h hs, rfl⟩

/-- R15: the part that has answered READ-SNAPSHOT latches at the next SNAPSHOT. -/
theorem exec_snapshot_after_read (h : Heard s []) (r : Response) :
    let t := (s.setTime { s.time with snapshot := none }).answer [] r
    ∃ u, exec (.snapshot []) t = .next u ∧ u.time.snapshot = some t.time.picture :=
  exec_snapshot_latches ((h.setTime _).answer [] r) rfl

/-! ### The resets -/

@[simp] theorem State.powerOn_snapshot (boards : BitVec 3) (load belfry : Bool) :
    (State.powerOn boards load belfry).time.snapshot = none := rfl

@[simp] theorem State.warm_snapshot (s : State) : s.warm.time.snapshot = none := rfl

/-- Settles O31, by what each of the two commands does with an empty and with a held snapshot. -/
theorem snapshotLatchesAndEmpties : Obligations.SnapshotLatchesAndEmpties := by
  refine ⟨?latches, ?ignored, ?read, ?empty, State.powerOn_snapshot, State.warm_snapshot⟩
  case latches => exact fun s h hs => exec_snapshot_empty h hs
  case ignored => exact fun s x h hs => exec_snapshot_held h hs
  case read =>
    exact fun s x h hs => ⟨_, exec_readSnapshot_held h hs, rfl, exec_snapshot_after_read h _⟩
  case empty => exact fun s h hs => exec_readSnapshot_empty h hs

end Sys2Proof.Machine
end

section
/-! SUPPORT. RESTORE-BELL (R34): how a bell record stands when its miss run and failure cause are cleared, what a
later presumption or late contact makes of a run of 0, and what the command does for a bell with and without a
reported fault and for a number that names no bell. -/

namespace Sys2Proof.Machine

set_option Elab.async false

/-! ### Operands -/

/-- A byte-sized operand above its bound is not read. -/
theorem parseByte_u8_above {n bound : Nat} (h : bound < n) (hn : n < 256) :
    parseByte bound (u8 n) = none := by
  have hbyte : byteAt (u8 n) 0 = n := by simp [byteAt, u8, Nat.mod_eq_of_lt hn]
  simp [parseByte, check, hbyte, h]

/-- R191, step 3: a request whose operands are not read is answered and changes nothing else. -/
theorem State.request_unread {α : Type} {s : State} {p : List Byte} {parse : List Byte → Option α}
    {owner : State → α → State × Response} (h : Heard s p) (hp : parse p = none) :
    s.request p parse owner = .next (s.answer p (.refuse .badOperand)) := by
  rw [State.request_badOperand h.free h.fits h.operating hp, State.arrive_heard]
  rfl

/-! ### The bell record -/

/-- A record without a failure cause and without a miss run is READY. -/
theorem Bell.health_clearHealth (r : Bell) : r.clearHealth.health = .ready := rfl

/-- R29: once the health is cleared, availability follows the other four inputs. -/
theorem Bell.mayBeStruck_clearHealth (r : Bell) :
    r.clearHealth.mayBeStruck = (r.present && r.calibrated && !r.lockout && r.boardOnline) := by
  have hready : (r.clearHealth.health != .failed) = true := by
    rw [Bell.health_clearHealth]
    rfl
  rw [Bell.mayBeStruck, hready, Bool.and_true]
  rfl

/-- R26: a presumption counts from 0, and only on a bell whose board is online. -/
theorem Bell.missRun_presume {r : Bell} (h : r.missRun = 0) (online : Bool) :
    (r.presume online).missRun = if online then 1 else 0 := by
  cases online with
  | false => exact h
  | true => simp [Bell.presume, h]

/-- R27: a late contact does not raise the run. -/
theorem Bell.missRun_lateContact_le (r : Bell) (carried instant : Nat) :
    (r.lateContact carried instant).missRun ≤ r.missRun := by
  unfold Bell.lateContact
  dsimp only
  split
  · exact Nat.le_of_lt ‹carried < r.missRun›
  · exact Nat.le_refl _

/-! ### What leaves the bell records as they are -/

section Records

variable (s : State) (i : Nat)

@[simp] theorem State.bell_heard (p : List Byte) : (s.heard p).bell i = s.bell i := rfl
@[simp] theorem State.bell_finish : s.finish.bell i = s.bell i := rfl
@[simp] theorem State.bell_respond (r : Response) : (s.respond r).bell i = s.bell i := rfl

end Records

/-! ### What the owner does -/

variable {s : State} {n : Nat}

theorem State.ownRestore_fault (hf : (s.bell n).faultReported = true) :
    s.ownRestore n = s.refuse .unavailable := by
  simp [State.ownRestore, hf]

theorem State.ownRestore_noFault (hf : (s.bell n).faultReported = false) :
    s.ownRestore n = (s.writeBell n (s.bell n).clearHealth).finish.done [] := by
  simp [State.ownRestore, hf]

/-! ### What the command does -/

theorem exec_restoreBell (p : List Byte) (s : State) :
    exec (.restoreBell p) s = s.request p (parseByte 55) State.ownRestore := rfl

theorem exec_restoreBell_badOperand (h : Heard s (u8 n)) (hn : 55 < n) (hb : n < 256) :
    exec (.restoreBell (u8 n)) s = .next (s.answer (u8 n) (.refuse .badOperand)) := by
  rw [exec_restoreBell]
  exact State.request_unread h (parseByte_u8_above hn hb)

theorem exec_restoreBell_fault (h : Heard s (u8 n)) (hn : n ≤ 55)
    (hf : (s.bell n).faultReported = true) :
    exec (.restoreBell (u8 n)) s = .next (s.answer (u8 n) (.refuse .unavailable)) := by
  rw [exec_restoreBell]
  exact State.request_refused h (parseByte_u8 hn (by decide))
    (State.ownRestore_fault (s := s.heard (u8 n)) hf)

/-- R34: the part once a bell without a reported fault is restored and the request answered. -/
def State.restored (s : State) (n : Nat) : State :=
  ((s.heard (u8 n)).writeBell n (s.bell n).clearHealth).finish.respond .plain

theorem exec_restoreBell_noFault (h : Heard s (u8 n)) (hn : n ≤ 55)
    (hf : (s.bell n).faultReported = false) :
    exec (.restoreBell (u8 n)) s = .next (s.restored n) := by
  rw [exec_restoreBell, State.request_heard h (parseByte_u8 hn (by decide)),
    State.ownRestore_noFault (s := s.heard (u8 n)) hf]
  rfl

/-- The restored bell keeps its record but for what is cleared and the availability computed from it. -/
theorem State.bell_restored (hn : n < s.bells.length) :
    (s.restored n).bell n = { (s.bell n).clearHealth with
      available := (s.bell n).present && (s.bell n).calibrated && !(s.bell n).lockout &&
        (s.bell n).boardOnline } := by
  rw [State.restored, State.bell_respond, State.bell_finish,
    State.bell_writeBell (s.heard (u8 n)) n _ hn, Bell.mayBeStruck_clearHealth]

theorem State.health_restored (hn : n < s.bells.length) :
    ((s.restored n).bell n).health = .ready := by
  rw [State.bell_restored hn]
  exact (s.bell n).health_clearHealth

theorem State.bell_restored_other {j : Nat} (hj : j ≠ n) : (s.restored n).bell j = s.bell j := by
  rw [State.restored, State.bell_respond, State.bell_finish, State.bell_writeBell_other _ _ _ _ hj,
    State.bell_heard]

/-- Settles O36, by what RESTORE-BELL does with a reported fault, without one, and for a number that names no
bell, and by what a run of 0 becomes. -/
theorem restoreBellNeedsNoFault : Obligations.RestoreBellNeedsNoFault := by
  refine ⟨fun s n h hn => ⟨?fault, ?noFault⟩, ?badOperand,
    fun r online carried instant hr => ⟨?presumed, ?late⟩⟩
  case fault => exact exec_restoreBell_fault h hn
  case noFault =>
    exact fun hf => ⟨s.restored n, exec_restoreBell_noFault h hn hf, rfl,
      fun hl => ⟨State.health_restored hl, State.bell_restored hl⟩,
      fun j hj => State.bell_restored_other hj⟩
  case badOperand => exact fun s n h hn hb => exec_restoreBell_badOperand h hn hb
  case presumed => exact Bell.missRun_presume hr online
  case late => exact Nat.eq_zero_of_le_zero (hr ▸ r.missRun_lateContact_le carried instant)

end Sys2Proof.Machine
end

section
/-! SUPPORT. Bounces and strays (R45, R46): a bell record whose health and availability stay as they were is written
without an event, and what a contact report is taken as in each hammer state that only counts it. -/

namespace Sys2Proof.Machine

set_option Elab.async false

/-! ### Availability -/

/-- R29 for every number: one that names no bell reads as a bell that is not present, and not available. -/
theorem AvailabilityDerived.bell {s : State} (h : AvailabilityDerived s) (i : Nat) :
    (s.bell i).available = (s.bell i).mayBeStruck := by
  unfold State.bell
  by_cases hi : i < s.bells.length
  · rw [List.getD_eq_getElem _ _ hi]
    exact h _ (List.getElem_mem hi)
  · rw [List.getD_eq_default _ _ (Nat.le_of_not_lt hi)]
    rfl

/-- A record that already shows the availability its inputs give is stored as it is. -/
theorem Bell.available_derived {r : Bell} (h : r.available = r.mayBeStruck) :
    { r with available := r.mayBeStruck } = r := by
  rw [← h]

/-- R26, R28, R29: a write that leaves the health and the availability raises no notice and hands no event on. -/
theorem State.writeBell_quiet {s : State} {i : Nat} {r : Bell} (health : r.health = (s.bell i).health)
    (struck : r.mayBeStruck = (s.bell i).available) (derived : r.available = r.mayBeStruck) :
    s.writeBell i r = { s with bells := s.bells.set i r } := by
  have noFailure : ¬((s.bell i).health ≠ .failed ∧ r.health = .failed) := by
    rw [health]
    exact fun ⟨hold, hnew⟩ => hold hnew
  unfold State.writeBell
  simp only [if_neg noFailure, if_pos struck, Bell.available_derived derived]

/-! ### What a contact report is taken as -/

section Report

variable {s : State} {i : Nat} (age : Nat)

/-- R40, R45. -/
theorem State.contactReport_bounce (hm : (s.hammer i).state = .mask)
    (hp : (s.hammer i).presumed = false) :
    s.contactReport i age =
      s.writeBell i { s.bell i with bounces := (s.bell i).bounces + 1 } := by
  simp [State.contactReport, hm, hp]

/-- R40, R46. -/
theorem State.contactReport_stray
    (h : (s.hammer i).state = .ordered ∨ (s.hammer i).state = .settle ∨ (s.hammer i).state = .idle) :
    s.contactReport i age =
      s.writeBell i { s.bell i with strays := (s.bell i).strays + 1 } := by
  obtain ordered | settle | idle := h
  · simp [State.contactReport, ordered]
  · simp [State.contactReport, settle]
  · simp [State.contactReport, idle]

end Report

/-- Settles O39: neither counter is an input of the health or of the availability, so each record is written
without an event. -/
theorem bouncesAndStraysAreOnlyCounted : Obligations.BouncesAndStraysAreOnlyCounted := by
  intro s i age derived
  have available := derived.bell i
  refine ⟨fun hm hp => ?bounce, fun h => ?stray⟩
  case bounce =>
    rw [State.contactReport_bounce age hm hp]
    exact State.writeBell_quiet rfl available.symm available
  case stray =>
    rw [State.contactReport_stray age h]
    exact State.writeBell_quiet rfl available.symm available

end Sys2Proof.Machine
end

section
/-! SUPPORT. What every step keeps: the invariants as one list of laws, of the blocks (`BodyLaw`) and of the whole
part (`Law`), and which changes keep them all. -/

namespace Sys2Proof.Machine

set_option Elab.async false

/-! ### The laws of the blocks -/

/-- The invariants that speak of the blocks alone. -/
inductive BodyLaw where
  | accounts | ordered | queueFits | fifoFits | oneOrderEach | ordersInTurn | serves | oneWriting

def BodyLaw.Holds : BodyLaw → Body → Prop
  | .accounts => Body.Accounts
  | .ordered => Body.QueueOrdered
  | .queueFits => Body.QueueFits
  | .fifoFits => Body.FifoFits
  | .oneOrderEach => Body.OneOrderEach
  | .ordersInTurn => Body.OrdersInTurn
  | .serves => Body.LineServesOrders
  | .oneWriting => Body.OneWriting

/-- `b` meets every law that `a` meets. -/
def Body.Lawful (a b : Body) : Prop := ∀ l : BodyLaw, l.Holds a → l.Holds b

theorem Body.Lawful.refl (a : Body) : Body.Lawful a a := fun _ h => h

theorem Body.Lawful.trans {a b c : Body} (h : Body.Lawful a b) (k : Body.Lawful b c) : Body.Lawful a c :=
  fun l x => k l (h l x)

/-- The part of the bus that the laws speak of. -/
def Bus.orders (u : Bus) : List Order × Line × Bool := (u.sendList, u.line, u.access)

theorem Body.serves_congr {b c : Body} (h : c.bus.orders = b.bus.orders) :
    b.LineServesOrders → c.LineServesOrders := by
  simp only [Bus.orders, Prod.mk.injEq] at h
  obtain ⟨list, line, access⟩ := h
  unfold Body.LineServesOrders
  rw [list, line, access]
  exact id

theorem Body.oneWriting_congr {b c : Body} (h : ∀ n, (c.slot n).state = (b.slot n).state) :
    b.OneWriting → c.OneWriting := by
  unfold Body.OneWriting
  simp only [h]
  exact id

/-- Only the Scheduler, the length of the FIFO, the orders and the slots' states matter. -/
theorem Body.Lawful.of {b c : Body} (sched : c.sched = b.sched) (fifo : c.con.fifo.length ≤ b.con.fifo.length)
    (orders : c.bus.orders = b.bus.orders) (slots : ∀ n, (c.slot n).state = (b.slot n).state) :
    Body.Lawful b c := by
  have list : c.bus.sendList = b.bus.sendList := congrArg Prod.fst orders
  intro l
  cases l with
  | accounts => simp only [BodyLaw.Holds, Body.Accounts, sched]; exact id
  | ordered => simp only [BodyLaw.Holds, Body.QueueOrdered, sched]; exact id
  | queueFits =>
    simp only [BodyLaw.Holds, Body.QueueFits, Body.tuneTotal, Body.queuedCount, Body.quota, sched]
    exact id
  | fifoFits => exact Nat.le_trans fifo
  | oneOrderEach => simp only [BodyLaw.Holds, Body.OneOrderEach, list]; exact id
  | ordersInTurn => simp only [BodyLaw.Holds, Body.OrdersInTurn, list]; exact id
  | serves => exact Body.serves_congr orders
  | oneWriting => exact Body.oneWriting_congr slots

/-- The slots of equal `still` are in equal states. -/
theorem Body.slot_state_of_still {a b : Body} (h : b.still = a.still) (n : Nat) :
    (b.slot n).state = (a.slot n).state := by
  have hs : b.slots.map (fun x : Slot => { x with users := 0 }) =
      a.slots.map fun x : Slot => { x with users := 0 } := congrArg Still.slots h
  have state : ∀ l : List Slot, (l.getD n Slot.emptySlot).state =
      ((l.map fun x : Slot => { x with users := 0 }).getD n Slot.emptySlot).state := by
    intro l
    simp only [List.getD_eq_getElem?_getD, List.getElem?_map]
    cases l[n]? <;> rfl
  unfold Body.slot
  rw [state, state a.slots, hs]

/-- What the blocks' operations on one another keep is lawful. -/
theorem Body.Keeps.lawful {a b : Body} (h : Body.Keeps a b) : Body.Lawful a b := by
  intro l
  cases l with
  | accounts => exact h.accounts
  | ordered => exact h.ordered
  | queueFits => exact h.fits
  | fifoFits => exact Nat.le_trans h.fifo
  | oneOrderEach => exact h.orders
  | ordersInTurn => exact h.turn
  | serves => exact h.serves
  | oneWriting => exact Body.oneWriting_congr (Body.slot_state_of_still h.still)

/-! ### The laws of the part -/

/-- R2, R4, R13: what `TowerWithClock` says of the Time Base. -/
def TimeBase.WithClock (t : TimeBase) : Prop :=
  (t.clock = .unset ↔ t.tower = none) ∧ (t.pendingLoad ≠ none → t.clock = .holdover) ∧
  (t.wholeSecond = true → t.pendingLoad ≠ none)

/-- `u` keeps the laws of the Time Base. -/
structure TimeBase.Lawful (t u : TimeBase) : Prop where
  range : t.runTime ≤ maxRunTime → u.runTime ≤ maxRunTime
  clock : t.WithClock → u.WithClock

/-- Every invariant of the part. -/
inductive Law where
  | memory | runTime | tower | available | flights
  | body (l : BodyLaw)

/-- The hold of RST matters to the send list alone (R188, R199). -/
def Law.Holds : Law → State → Prop
  | .memory => MemoryCanonical
  | .runTime => RunTimeInRange
  | .tower => TowerWithClock
  | .available => AvailabilityDerived
  | .flights => FlightsSound
  | .body l => fun s => l.Holds s.body ∧ (l = .serves → s.rst.held = true → s.body.bus.sendList = [])

/-- `t` meets every law that `s` meets. -/
def State.KeepsLaws (s t : State) : Prop := ∀ l : Law, l.Holds s → l.Holds t

theorem State.KeepsLaws.refl (s : State) : State.KeepsLaws s s := fun _ h => h

theorem State.KeepsLaws.trans {s t u : State} (h : State.KeepsLaws s t) (k : State.KeepsLaws t u) :
    State.KeepsLaws s u := fun l x => k l (h l x)

/-- A part that is not held has come to `t`, is not held there, has its commands still waiting, and meets every
law that it met. -/
structure State.Lawful (s t : State) : Prop where
  pending : t.pending = s.pending
  free    : t.rst.held = false
  laws    : State.KeepsLaws s t

variable {s t u : State}

theorem State.Lawful.refl (h : s.rst.held = false) : State.Lawful s s :=
  ⟨rfl, h, State.KeepsLaws.refl s⟩

theorem State.Lawful.trans (h : State.Lawful s t) (k : State.Lawful t u) : State.Lawful s u :=
  ⟨k.pending.trans h.pending, k.free, h.laws.trans k.laws⟩

theorem lawful_ite {p : Prop} [Decidable p] (h : State.Lawful s t) (k : State.Lawful s u) :
    State.Lawful s (if p then t else u) := by split <;> assumption

theorem lawful_foldl {β : Type} (f : State → β → State) (l : List β)
    (hf : ∀ t x, State.Lawful s t → State.Lawful s (f t x)) (h : State.Lawful s t) :
    State.Lawful s (l.foldl f t) := by
  induction l generalizing t with
  | nil => exact h
  | cons x xs ih => exact ih (hf t x h)

theorem lawful_foldl_fst {β γ : Type} (f : State × γ → β → State × γ) (l : List β) (r : State × γ)
    (hf : ∀ r x, State.Lawful s r.1 → State.Lawful s (f r x).1) (h : State.Lawful s r.1) :
    State.Lawful s (l.foldl f r).1 := by
  induction l generalizing r with
  | nil => exact h
  | cons x xs ih => exact ih _ (hf r x h)

theorem Law.holds_serves : (Law.body .serves).Holds s ↔ LineServesOrders s :=
  ⟨fun h => ⟨h.1, h.2 rfl⟩, fun h => ⟨h.1, fun _ => h.2⟩⟩

/-- Without the hold a law of the blocks is one of the part. -/
theorem Law.holds_of_free {l : BodyLaw} (free : s.rst.held = false) (h : l.Holds s.body) :
    (Law.body l).Holds s := ⟨h, fun _ held => absurd (free.symm.trans held) Bool.false_ne_true⟩

/-- Every law but one of the line is the same with and without the hold. -/
theorem Law.holds_body {l : BodyLaw} (other : l ≠ .serves) : (Law.body l).Holds s ↔ l.Holds s.body :=
  ⟨fun h => h.1, fun h => ⟨h, fun k => absurd k other⟩⟩

/-- The blocks change, lawfully. -/
theorem lawful_setBody {b : Body} (h : State.Lawful s t) (k : Body.Lawful t.body b) :
    State.Lawful s (t.setBody b) := by
  refine ⟨h.pending, h.free, h.laws.trans fun l hl => ?_⟩
  cases l with
  | memory => exact hl
  | runTime => exact hl
  | tower => exact hl
  | available => exact hl
  | flights => exact hl
  | body l => exact Law.holds_of_free h.free (k l hl.1)

theorem lawful_keeps {b : Body} (h : State.Lawful s t) (k : Body.Keeps t.body b) :
    State.Lawful s (t.setBody b) := lawful_setBody h k.lawful

theorem lawful_finish (h : State.Lawful s t) : State.Lawful s t.finish :=
  lawful_keeps h (keeps_finish _ (Body.Keeps.refl _))

theorem lawful_act {f : Env → Body → Body} (h : State.Lawful s t)
    (k : Body.Lawful t.body (f t.env t.body)) : State.Lawful s (t.act f) :=
  lawful_finish (lawful_setBody h k)

theorem lawful_setPort (p : Port) (h : State.Lawful s t) : State.Lawful s (t.setPort p) :=
  lawful_setBody h (Body.Lawful.of rfl (Nat.le_refl _) rfl fun _ => rfl)

theorem lawful_raise (n : Notice) (h : State.Lawful s t) : State.Lawful s (t.raise n) :=
  lawful_setPort _ h

theorem lawful_setHammer (i : Nat) (x : Hammer) (h : State.Lawful s t) :
    State.Lawful s (t.setHammer i x) := lawful_keeps h (keeps_setHammer i x (Body.Keeps.refl _))

theorem lawful_setBoard (n : Nat) (x : Board) (h : State.Lawful s t) :
    State.Lawful s (t.setBoard n x) :=
  lawful_setBody h (Body.Lawful.of rfl (Nat.le_refl _) rfl fun _ => rfl)

/-- The Time Base changes: Run Time stays in its range, and Tower Time goes with the clock as it did. -/
theorem lawful_setTime_of {x : TimeBase} (h : State.Lawful s t)
    (range : t.time.runTime ≤ maxRunTime → x.runTime ≤ maxRunTime)
    (clock : s.time.WithClock → t.time.WithClock → x.WithClock) : State.Lawful s (t.setTime x) := by
  refine ⟨h.pending, h.free, fun l hs => ?_⟩
  have ht := h.laws l hs
  cases l with
  | memory => exact ht
  | runTime => exact range ht
  | tower => exact clock hs ht
  | available => exact ht
  | flights => exact ht
  | body l => exact ht

theorem lawful_setTime {x : TimeBase} (h : State.Lawful s t) (k : TimeBase.Lawful t.time x) :
    State.Lawful s (t.setTime x) := lawful_setTime_of h k.range fun _ => k.clock

/-- The bell records change: each new one has its availability derived, and sound flights where all had. -/
theorem lawful_bells {l : List Bell} (h : State.Lawful s t)
    (available : AvailabilityDerived t → ∀ r ∈ l, r.available = r.mayBeStruck)
    (flights : FlightsSound t → ∀ r ∈ l, r.FlightSound) :
    State.Lawful s { t with bells := l } := by
  refine ⟨h.pending, h.free, h.laws.trans fun law hl => ?_⟩
  cases law with
  | memory => exact hl
  | runTime => exact hl
  | tower => exact hl
  | available => exact available hl
  | flights => exact flights hl
  | body l => exact hl

/-- R126, R209: the note records change within their canonical form. -/
theorem lawful_memory {m : Memory} (h : State.Lawful s t)
    (wf : Memory.wf t.memory = true → Memory.wf m = true) : State.Lawful s { t with memory := m } := by
  refine ⟨h.pending, h.free, h.laws.trans fun law hl => ?_⟩
  cases law with
  | memory => exact wf hl
  | runTime => exact hl
  | tower => exact hl
  | available => exact hl
  | flights => exact hl
  | body l => exact hl

/-- The Bell Maps and the level of the BELFRY input are in no law. -/
theorem lawful_setMap (m : MapId) (l : List MapEntry) (h : State.Lawful s t) :
    State.Lawful s (t.setMap m l) := by
  cases m <;> exact ⟨h.pending, h.free, h.laws.trans fun law hl => by cases law <;> exact hl⟩

theorem lawful_belfry (x : Bool) (h : State.Lawful s t) : State.Lawful s { t with belfry := x } :=
  ⟨h.pending, h.free, h.laws.trans fun law hl => by cases law <;> exact hl⟩

/-! ### A bell record written -/

/-- A bell's availability is not an input of itself. -/
theorem Bell.mayBeStruck_available (r : Bell) (x : Bool) :
    Bell.mayBeStruck { r with available := x } = r.mayBeStruck := rfl

theorem State.bell_mem {i : Nat} (h : i < s.bells.length) : s.bell i ∈ s.bells := by
  unfold State.bell
  rw [List.getD_eq_getElem _ _ h]
  exact List.getElem_mem h

theorem FlightsSound.bell {i : Nat} (h : FlightsSound s) (hi : i < s.bells.length) :
    (s.bell i).FlightSound := h _ (State.bell_mem hi)

/-- R29: a bell record is written with its availability computed, whatever it was. -/
theorem lawful_writeBell {i : Nat} {r : Bell} (h : State.Lawful s t)
    (sound : (t.bell i).FlightSound → r.FlightSound) : State.Lawful s (t.writeBell i r) := by
  have written : State.Lawful s { t with bells := t.bells.set i { r with available := r.mayBeStruck } } := by
    refine lawful_bells h (fun derived x hx => ?_) (fun flights x hx => ?_)
    · rcases List.mem_or_eq_of_mem_set hx with old | rfl
      · exact derived x old
      · rfl
    · by_cases hi : i < t.bells.length
      · rcases List.mem_or_eq_of_mem_set hx with old | rfl
        · exact flights x old
        · exact sound (flights.bell hi)
      · rw [List.set_eq_of_length_le (by omega)] at hx
        exact flights x hx
  have noticed := lawful_ite (p := (t.bell i).health ≠ .failed ∧ r.health = .failed)
    (lawful_raise .bellFailed written) written
  exact lawful_ite noticed (lawful_keeps noticed (keeps_availabilityEvent _ _ _ (Body.Keeps.refl _)))

/-! ### Requests and events -/

/-- What a command may come to: the next state is lawful. -/
def Result.Lawful (s : State) (r : Result) : Prop := ∃ t, r = .next t ∧ t.pending = s.pending ∧ State.KeepsLaws s t

theorem State.running_lawful {f : State → State} (h : s.rst.held = false → State.Lawful s (f s)) :
    Result.Lawful s (s.running f) := by
  cases held : s.rst.held with
  | true => exact ⟨s, State.running_held held f, rfl, State.KeepsLaws.refl s⟩
  | false => exact ⟨f s, State.running_free held f, (h held).pending, (h held).laws⟩

theorem lawful_respond (r : Response) (h : State.Lawful s t) : State.Lawful s (t.respond r) :=
  lawful_setPort _ h

theorem lawful_arrive (n : Nat) (h : State.Lawful s t) : State.Lawful s (t.arrive n) :=
  lawful_setPort _ h

/-- R191: a request whose owner acts lawfully on the operands read. -/
theorem State.request_lawful {α : Type} {payload : List Byte} {parse : List Byte → Option α}
    {owner : State → α → State × Response}
    (h : ∀ (u : State) (x : α), State.Lawful s u → parse payload = some x →
      State.Lawful s (owner u x).1) :
    Result.Lawful s (s.request payload parse owner) := by
  refine State.running_lawful fun free => ?_
  have here := State.Lawful.refl free
  refine lawful_ite (lawful_respond _ (lawful_setPort _ (lawful_setPort _ here))) ?_
  have arrived := lawful_arrive (payload.length + 4) here
  refine lawful_ite (lawful_respond _ arrived) ?_
  split
  · exact lawful_respond _ arrived
  · exact lawful_respond _ (h _ _ arrived ‹_›)

/-- A read changes nothing. -/
theorem State.request_reads {α : Type} {payload : List Byte} {parse : List Byte → Option α}
    {owner : State → α → State × Response} (h : ∀ u x, (owner u x).1 = u) :
    Result.Lawful s (s.request payload parse owner) :=
  State.request_lawful fun u x hu _ => by rw [h]; exact hu

end Sys2Proof.Machine
end

section
/-! SUPPORT. The operations over whole states keep every law: bell records, the Hammer Cycle, poll windows, the bus,
the queue's settings, the tune store, the Time Base, the configuration load and the resets. -/

namespace Sys2Proof.Machine

set_option Elab.async false

/-! ### Flights -/

section Flights

variable {r : Bell}

/-- R21: a seed within the bounds fills the ring. -/
theorem BandRing.within_seed {v floor ceiling : Nat} (h : floor ≤ v ∧ v ≤ ceiling) :
    (BandRing.seed v).Within floor ceiling :=
  ⟨rfl, Nat.zero_lt_succ 7, fun _ hx => List.eq_of_mem_replicate hx ▸ h⟩

/-- R22: a value within the bounds enters the ring. -/
theorem BandRing.Within.put {x : BandRing} {v floor ceiling : Nat} (h : x.Within floor ceiling)
    (hv : floor ≤ v ∧ v ≤ ceiling) : (x.put v).Within floor ceiling := by
  obtain ⟨length, _, within⟩ := h
  refine ⟨(List.length_set ..).trans length, Nat.mod_lt _ (by decide), fun y hy => ?_⟩
  rcases List.mem_or_eq_of_mem_set hy with old | rfl
  · exact within y old
  · exact hv

/-- R22: an accepted capture lies within the bounds, and a rejected one leaves the rings. -/
theorem Bell.FlightSound.capture (h : r.FlightSound) (band : Band) (v : Nat) :
    (r.capture band v).FlightSound := by
  obtain ⟨depth, soft, loud⟩ := h
  unfold Bell.capture
  split
  · rename_i hv
    cases band with
    | soft => exact ⟨depth, soft.put hv, loud⟩
    | loud => exact ⟨depth, soft, loud.put hv⟩
  · exact ⟨depth, soft, loud⟩

theorem Bell.FlightSound.presume (h : r.FlightSound) (online : Bool) : (r.presume online).FlightSound := by
  unfold Bell.presume
  dsimp only
  split
  · exact h
  · exact h

/-- What the operands of a calibration have passed (R32, R35). -/
def Calibration.Sound (c : Calibration) : Prop :=
  c.depth ∈ [1, 2, 4, 8] ∧ (c.floor ≤ c.softSeed ∧ c.softSeed ≤ c.ceiling) ∧
    c.floor ≤ c.loudSeed ∧ c.loudSeed ≤ c.ceiling

theorem Calibration.Sound.bell {c : Calibration} (h : c.Sound) : (r.calibrate c).FlightSound :=
  ⟨h.1, BandRing.within_seed h.2.1, BandRing.within_seed h.2.2⟩

theorem parseCalibration_sound {p : List Byte} {i : Nat} {c : Calibration}
    (h : parseCalibration p i = some c) : c.Sound := by
  unfold parseCalibration at h
  obtain ⟨placement, _, h⟩ := Option.bind_eq_some_iff.mp h
  simp only [check, Option.ite_none_right_eq_some, Option.some.injEq, Bool.and_eq_true,
    decide_eq_true_eq, List.contains_iff_mem] at h
  obtain ⟨⟨⟨⟨⟨_, depth⟩, _⟩, _⟩, softLow, softHigh, loudLow, loudHigh⟩, rfl⟩ := h
  exact ⟨depth, ⟨softLow, softHigh⟩, loudLow, loudHigh⟩

theorem defaultCalibration_sound (x : Option (Nat × Nat)) : (defaultCalibration x).Sound := by
  simp [Calibration.Sound, defaultCalibration]

end Flights

variable {s t : State}

/-! ### The Hammer Cycle and poll windows -/

theorem lawful_enterIdle (i : Nat) (h : State.Lawful s t) :
    State.Lawful s (t.setBody (t.body.enterIdle i)) :=
  lawful_keeps h (keeps_enterIdle i (Body.Keeps.refl _))

theorem lawful_leaveDrive (i base : Nat) (x : Hammer) (mask : Nat) (h : State.Lawful s t) :
    State.Lawful s (t.leaveDrive i base x mask) :=
  lawful_ite (lawful_setHammer _ _ h) (lawful_ite (lawful_setHammer _ _ h) (lawful_enterIdle i h))

theorem lawful_sendCompleted (i : Nat) (h : State.Lawful s t) : State.Lawful s (t.sendCompleted i) :=
  lawful_ite (lawful_writeBell (lawful_setHammer _ _ h) id) h

theorem lawful_presume (i : Nat) (h : State.Lawful s t) : State.Lawful s (t.presume i) :=
  lawful_leaveDrive _ _ _ _ (lawful_writeBell (lawful_setHammer _ _ h) fun sound => sound.presume _)

theorem lawful_maskEnds (i : Nat) (h : State.Lawful s t) : State.Lawful s (t.maskEnds i) :=
  lawful_ite (lawful_setHammer _ _ h) (lawful_enterIdle i h)

theorem lawful_contactReport (i age : Nat) (h : State.Lawful s t) :
    State.Lawful s (t.contactReport i age) := by
  unfold State.contactReport
  dsimp only
  split
  · exact lawful_leaveDrive _ _ _ _
      (lawful_writeBell (lawful_setHammer _ _ h) fun sound => sound.capture _ _)
  · exact lawful_ite (lawful_writeBell (lawful_setHammer _ _ h) id) (lawful_writeBell h id)
  · exact lawful_writeBell h id

theorem lawful_boardEvent (n : Nat) (online : Bool) (h : State.Lawful s t) :
    State.Lawful s (t.boardEvent n online) := by
  refine lawful_foldl _ _ (fun u i k => ?_) h
  dsimp only
  split
  · exact lawful_ite (lawful_writeBell k id) k
  · exact k

theorem keeps_cancelOrders {a b : Body} (cause : CancelCause) (l : List Order) (h : Body.Keeps a b) :
    Body.Keeps a (b.cancelOrders cause l) := by
  induction l generalizing b with
  | nil => exact h
  | cons o rest ih => exact ih (keeps_cancelOrder _ _ h)

theorem lawful_boardOffline (n : Nat) (h : State.Lawful s t) : State.Lawful s (t.boardOffline n) :=
  lawful_boardEvent _ _ (lawful_raise _
    (lawful_keeps (lawful_setBoard _ _ h) (keeps_cancelOrders _ _ (Body.Keeps.refl _))))

theorem lawful_boardOnline (n : Nat) (h : State.Lawful s t) : State.Lawful s (t.boardOnline n) :=
  lawful_boardEvent _ _ (lawful_raise _ (lawful_setBoard _ _ h))

theorem lawful_missedPoll (n : Nat) (nothing : Bool) (h : State.Lawful s t) :
    State.Lawful s (t.missedPoll n nothing) :=
  lawful_ite (lawful_boardOffline n (lawful_setBoard _ _ h)) (lawful_setBoard _ _ h)

theorem lawful_takeFaults (n : Nat) (faults : Byte) (h : State.Lawful s t) :
    State.Lawful s (t.takeFaults n faults) := by
  refine lawful_foldl _ _ (fun u k hu => ?_) (lawful_setBoard _ _ h)
  split
  · exact lawful_writeBell hu id
  · exact hu

theorem lawful_takeReport (n i age : Nat) (h : State.Lawful s t) :
    State.Lawful s (t.takeReport n i age) := by
  unfold State.takeReport
  dsimp only
  split
  · exact lawful_contactReport _ _ (lawful_setBoard _ _ h)
  · exact lawful_setBoard _ _ h

theorem lawful_takeContent (n : Nat) (r : Reply) (h : State.Lawful s t) :
    State.Lawful s (t.takeContent n r) := by
  have reported := lawful_foldl (fun u (c : Nat × Nat) => u.takeReport n c.1 c.2) r.reports
    (fun _ c k => lawful_takeReport n c.1 c.2 k) (lawful_takeFaults n r.faults h)
  exact lawful_ite (lawful_setBoard _ _ reported) reported

theorem lawful_judgeWindow (n : Nat) (received : List BusChar) (h : State.Lawful s t) :
    State.Lawful s (t.judgeWindow n received) := by
  unfold State.judgeWindow
  split
  · exact lawful_takeContent n _
      (lawful_ite (lawful_boardOnline n (lawful_setBoard _ _ h)) (lawful_setBoard _ _ h))
  · exact lawful_missedPoll _ _ h

/-! ### The bus -/

section Bus

variable {a b : Body}

/-- R180, R182: with Belfry Access asserted the send list is empty. -/
def Body.AccessClears (b : Body) : Prop := b.bus.access = true → b.bus.sendList = []

/-- R177, R182: once the line is IDLE, the next frame is that of an order in the list. -/
theorem lineEnds_serves (now : Nat) (h : b.AccessClears) : (b.lineEnds now).LineServesOrders :=
  (keeps_chooseFrame now (Body.Keeps.refl (b.setBus { b.bus with line := .idle }))).serves
    ⟨h, fun _ _ hl => by cases hl⟩

/-- A law that does not ask about the line is kept when the line becomes IDLE. -/
theorem lineEnds_lawful (now : Nat) : Body.Lawful b (b.lineEnds now) := by
  intro l hl
  have chosen := (keeps_chooseFrame now (Body.Keeps.refl (b.setBus { b.bus with line := .idle }))).lawful l
  cases l with
  | serves => exact lineEnds_serves now hl.1
  | _ => exact chosen hl

theorem removeWhere_bus (way : Way) (cond : Strike → Bool) (n : Nat) (b : Body) :
    (Body.removeWhere way cond n b).bus = b.bus := by
  induction n generalizing b with
  | zero => rfl
  | succ n ih =>
    unfold Body.removeWhere
    split
    · rfl
    · rw [ih, removeAt_bus]

theorem cancelHammer_bus (b : Body) (i : Nat) : (b.cancelHammer i).bus = b.bus := by
  unfold Body.cancelHammer
  split <;> rfl

theorem countCancel_orders (u : Bus) (cause : CancelCause) : (u.countCancel cause).orders = u.orders := by
  cases cause <;> rfl

/-- R178, R179: a cancellation takes the bell's orders off the list and cuts its frame off. -/
theorem cancelOrder_orders (b : Body) (bell : Nat) (cause : CancelCause) :
    b.cancelOrder bell cause = b ∧ (∀ o ∈ b.bus.sendList, o.bell ≠ bell) ∨
    (b.cancelOrder bell cause).bus.orders =
      (b.bus.sendList.filter (fun o => o.bell != bell), b.bus.line.cutOff bell, b.bus.access) := by
  unfold Body.cancelOrder
  split
  · rename_i none
    left
    refine ⟨rfl, fun o ho => ?_⟩
    simpa using List.find?_eq_none.mp none o ho
  · right
    rw [cancelHammer_bus]
    have h := countCancel_orders b.bus cause
    simp only [Bus.orders, Prod.mk.injEq] at h
    obtain ⟨list, line, access⟩ := h
    simp [Bus.orders, list, line, access]

theorem cancelOrder_accessClears (bell : Nat) (cause : CancelCause) (h : b.AccessClears) :
    (b.cancelOrder bell cause).AccessClears := by
  unfold Body.AccessClears
  obtain ⟨same, _⟩ | changed := cancelOrder_orders b bell cause
  · rw [same]; exact h
  · simp only [Bus.orders, Prod.mk.injEq] at changed
    obtain ⟨list, _, access⟩ := changed
    rw [list, access]
    intro asserted
    rw [h asserted, List.filter_nil]

theorem recomputeLamps_bus (e : Env) (which : Nat → Bool) (b : Body) :
    (b.recomputeLamps e which).bus = b.bus := by
  unfold Body.recomputeLamps
  split <;> rfl

theorem availabilityEvent_accessClears (e : Env) (bell : Nat) (rises : Bool) (h : b.AccessClears) :
    (b.availabilityEvent e bell rises).AccessClears := by
  have fall : (b.takeFall bell).AccessClears := by
    refine cancelOrder_accessClears _ _ ?_
    unfold Body.AccessClears Body.removeAll
    rw [removeWhere_bus]
    exact h
  unfold Body.AccessClears Body.availabilityEvent Body.lampsOfBell
  rw [recomputeLamps_bus]
  cases rises with
  | true => exact h
  | false => exact fall

theorem writeBell_accessClears (i : Nat) (r : Bell) (h : s.body.AccessClears) :
    (s.writeBell i r).body.AccessClears := by
  unfold State.writeBell
  dsimp only
  split <;> split
  · exact h
  · exact h
  · exact availabilityEvent_accessClears _ _ _ h
  · exact availabilityEvent_accessClears _ _ _ h

/-- The laws that do not ask which order the frame on the line is of. -/
def Law.Lineless (l : Law) : Prop := l ≠ .body .serves

/-- As `State.Lawful`, but for the frame on the line: its order may have left the list. -/
structure State.OffLine (s t : State) : Prop where
  pending : t.pending = s.pending
  free    : t.rst.held = false
  laws    : ∀ l : Law, l.Lineless → l.Holds s → l.Holds t
  clears  : (Law.body .serves).Holds s → t.body.AccessClears

/-- R178: an order whose frame is sent leaves the list. -/
theorem offLine_sent (bell : Nat) (sent : Counter) (n : Nat) (h : State.Lawful s t) :
    State.OffLine s (t.setBody (t.body.setBus { t.body.bus with
      sendList := t.body.bus.sendList.filter (fun o => o.bell != bell)
      actuatesSent := sent, consecutive := n })) where
  pending := h.pending
  free := h.free
  laws l hl hs := by
    have ht := h.laws l hs
    cases l with
    | body l =>
      refine Law.holds_of_free h.free ?_
      cases l with
      | serves => exact absurd rfl hl
      | oneOrderEach => exact List.Nodup.sublist (List.Sublist.map _ List.filter_sublist) ht.1
      | ordersInTurn => exact List.Pairwise.sublist List.filter_sublist ht.1
      | _ => exact ht.1
    | _ => exact ht
  clears hs access := by
    have empty : t.body.bus.sendList = [] := (h.laws (.body .serves) hs).1.1 access
    simp [empty]

/-- R38: the hammer takes its send completion. -/
theorem State.OffLine.sendCompleted (bell : Nat) (h : State.OffLine s t) :
    State.OffLine s (t.sendCompleted bell) := by
  have completed := lawful_sendCompleted bell (State.Lawful.refl h.free)
  refine ⟨completed.pending.trans h.pending, completed.free,
    fun l hl hs => completed.laws l (h.laws l hl hs), fun hs => ?_⟩
  unfold State.sendCompleted
  dsimp only
  split
  · exact writeBell_accessClears _ _ (h.clears hs)
  · exact h.clears hs

/-- R177, R182: once the line is IDLE every law holds again. -/
theorem State.OffLine.lineEnds (h : State.OffLine s t) :
    State.Lawful s (t.setBody (t.body.lineEnds t.now)) := by
  have ends := lawful_setBody (State.Lawful.refl h.free) (lineEnds_lawful (b := t.body) t.now)
  refine ⟨h.pending, h.free, fun l hs => ?_⟩
  by_cases line : l = .body .serves
  · subst line
    exact Law.holds_of_free h.free (lineEnds_serves _ (h.clears hs))
  · exact ends.laws l (h.laws l line hs)

/-- R178: the completed order leaves the list while its frame is on the line, which then becomes IDLE. -/
theorem lawful_orderSent (bell : Nat) (h : State.Lawful s t) : State.Lawful s (t.orderSent bell) :=
  ((offLine_sent bell (t.body.bus.actuatesSent + 1) (t.body.bus.consecutive + 1) h).sendCompleted bell).lineEnds

end Bus

end Sys2Proof.Machine
end

section
/-! SUPPORT. The operations of commands and events on the blocks keep every law: the queue's settings and its due
strikes, Belfry Access, the console's arrivals, the tune slots, and the changes of Tower Time. -/

namespace Sys2Proof.Machine

set_option Elab.async false

/-! ### The Strike Queue -/

section Queue

variable {b : Body}

theorem map_modify_same {α β : Type} (g : α → β) (f : α → α) (h : ∀ x, g (f x) = g x) (l : List α) (i : Nat) :
    (l.modify i f).map g = l.map g := by
  refine List.ext_getElem (by simp) fun k hk _ => ?_
  simp only [List.getElem_map, List.getElem_modify]
  split
  · exact h _
  · rfl

/-- What the counts of the queue ask of a strike. -/
theorem countP_map_same {β : Type} (g : Strike → β) (p : β → Bool) {l m : List Strike}
    (h : l.map g = m.map g) : l.countP (fun k => p (g k)) = m.countP (fun k => p (g k)) := by
  have count : ∀ n : List Strike, n.countP (fun k => p (g k)) = (n.map g).countP p := by
    intro n
    rw [List.countP_map]
    rfl
  rw [count, count, h]

/-- R67: a strike that becomes DUE keeps its place, its instants and its player. -/
theorem markDue_lawful (position : Nat) : Body.Lawful b (b.setSched { b.sched with
    queue := b.sched.queue.modify position fun k => { k with state := .due } }) := by
  have fires := map_modify_same (·.fire) (fun k : Strike => { k with state := .due }) (fun _ => rfl)
    b.sched.queue position
  have players := map_modify_same (·.player) (fun k : Strike => { k with state := .due }) (fun _ => rfl)
    b.sched.queue position
  intro l hl
  cases l with
  | accounts =>
    show b.sched.admitted = _ + BitVec.ofNat 32 (b.sched.queue.modify position _).length
    rw [List.length_modify]
    exact hl
  | ordered =>
    have inOrder : (b.sched.queue.map (·.fire)).Pairwise (· ≤ ·) := List.pairwise_map.mpr hl
    rw [← fires] at inOrder
    exact List.pairwise_map.mp inOrder
  | queueFits =>
    refine Body.QueueFits.of_le hl rfl (Nat.le_of_eq (List.length_modify ..)) fun p => Nat.le_of_eq ?_
    exact countP_map_same (·.player) (· == some p) players
  | fifoFits => exact hl
  | oneOrderEach => exact hl
  | ordersInTurn => exact hl
  | serves => exact hl
  | oneWriting => exact hl

theorem becomeDue_lawful (e : Env) (position : Nat) : Body.Lawful b (b.becomeDue e position) :=
  (markDue_lawful position).trans (keeps_dispatchAt e position (Body.Keeps.refl _)).lawful

/-- R58, R79: quotas that are not too low for what is queued. -/
theorem QueueFits.requoted {quotas : List Nat} (horizon late : Nat) (h : b.QueueFits)
    (room : b.quotaTooLow quotas = false) :
    (b.setSched { b.sched with
      quotas := quotas, horizon := horizon, lateLimit := late }).QueueFits := by
  obtain ⟨length, total, _⟩ := h
  refine ⟨length, total, fun p low high => ?_⟩
  simp only [Body.quotaTooLow, List.any_eq_false, List.mem_range, decide_eq_true_eq, Nat.not_lt] at room
  have fits := room (p - 1) (by omega)
  rwa [Nat.sub_add_cancel low] at fits

theorem takeSettings_lawful {quotas : List Nat} (now horizon late : Nat)
    (room : b.quotaTooLow quotas = false) :
    Body.Lawful b (b.takeSettings now quotas horizon late) := by
  refine Body.Lawful.trans (fun l hl => ?_)
    (keeps_settingsEvent (keeps_removeAll .late _ (Body.Keeps.refl _))).lawful
  cases l with
  | queueFits => exact QueueFits.requoted _ _ hl room
  | _ => exact hl

theorem takeAccess_lawful (asserted : Bool) : Body.Lawful b (b.takeAccess asserted) := by
  have set : Body.Lawful b (b.setSched { b.sched with access := asserted }) := fun l hl => by
    cases l <;> exact hl
  refine set.trans (Body.Keeps.lawful ?_)
  exact keeps_ite (keeps_removeAll _ _ (Body.Keeps.refl _)) (Body.Keeps.refl _)

end Queue

/-! ### Belfry Access at the Controller -/

section Access

variable {b : Body}

/-- R182: a frame on the line that is not cut off is that of an order in the list. -/
def Body.FrameServed (b : Body) : Prop :=
  ∀ bell ends, b.bus.line = .actuate bell ends false → ∃ o ∈ b.bus.sendList, o.bell = bell

theorem cancelOrder_frameServed (bell : Nat) (cause : CancelCause) (h : b.FrameServed) :
    (b.cancelOrder bell cause).FrameServed := by
  obtain ⟨same, _⟩ | changed := cancelOrder_orders b bell cause
  · rw [same]
    exact h
  · simp only [Bus.orders, Prod.mk.injEq] at changed
    obtain ⟨list, line, _⟩ := changed
    intro x ends hx
    rw [line] at hx
    obtain ⟨uncut, other⟩ := Line.cutOff_uncut hx
    obtain ⟨o, mem, served⟩ := h x ends uncut
    rw [list]
    exact ⟨o, List.mem_filter.mpr ⟨mem, by simpa [served] using other⟩, served⟩

theorem cancelOrders_frameServed (cause : CancelCause) (l : List Order) (h : b.FrameServed) :
    (b.cancelOrders cause l).FrameServed := by
  induction l generalizing b with
  | nil => exact h
  | cons o rest ih => exact ih (cancelOrder_frameServed _ _ h)

theorem cancelOrder_sendList (bell : Nat) (cause : CancelCause) (o : Order)
    (h : o ∈ (b.cancelOrder bell cause).bus.sendList) : o ∈ b.bus.sendList ∧ o.bell ≠ bell := by
  obtain ⟨same, other⟩ | changed := cancelOrder_orders b bell cause
  · rw [same] at h
    exact ⟨h, other o h⟩
  · have list : (b.cancelOrder bell cause).bus.sendList = _ := congrArg Prod.fst changed
    rw [list] at h
    simpa using List.mem_filter.mp h

/-- R180: of cancelled orders none stays. -/
theorem cancelOrders_sendList (cause : CancelCause) (l : List Order) (o : Order)
    (h : o ∈ (b.cancelOrders cause l).bus.sendList) :
    o ∈ b.bus.sendList ∧ ∀ x ∈ l, o.bell ≠ x.bell := by
  induction l generalizing b with
  | nil => exact ⟨h, fun _ hx => absurd hx List.not_mem_nil⟩
  | cons x rest ih =>
    obtain ⟨mem, others⟩ := ih h
    obtain ⟨listed, other⟩ := cancelOrder_sendList x.bell cause o mem
    exact ⟨listed, List.forall_mem_cons.mpr ⟨other, others⟩⟩

theorem takeBelfry_serves (asserted : Bool) (h : b.LineServesOrders) :
    (b.takeBelfry asserted).LineServesOrders := by
  let c := (b.setBus { b.bus with access := asserted }).raise .access
  cases asserted with
  | false => exact ⟨fun access => absurd access Bool.false_ne_true, h.2⟩
  | true =>
    have served : (c.cancelOrders .access c.bus.sendList).FrameServed :=
      cancelOrders_frameServed _ _ (b := c) h.2
    refine ⟨fun _ => List.eq_nil_iff_forall_not_mem.mpr fun o ho => ?_, served⟩
    obtain ⟨listed, others⟩ := cancelOrders_sendList (b := c) .access c.bus.sendList o ho
    exact others o listed rfl

theorem takeBelfry_lawful (asserted : Bool) : Body.Lawful b (b.takeBelfry asserted) := by
  intro l hl
  have cancelled : Body.Keeps ((b.setBus { b.bus with access := asserted }).raise .access)
      (b.takeBelfry asserted) :=
    keeps_ite (keeps_cancelOrders _ _ (Body.Keeps.refl _)) (Body.Keeps.refl _)
  cases l with
  | serves => exact takeBelfry_serves asserted hl
  | accounts => exact cancelled.accounts hl
  | ordered => exact cancelled.ordered hl
  | queueFits => exact cancelled.fits hl
  | fifoFits => exact Nat.le_trans cancelled.fifo hl
  | oneOrderEach => exact cancelled.orders hl
  | ordersInTurn => exact cancelled.turn hl
  | oneWriting => exact cancelled.lawful .oneWriting hl

end Access

/-! ### The console -/

section Console

variable {a b : Body}

/-- A console whose FIFO is no longer than it was. -/
theorem setCon_lawful {c : Console} (h : Body.Lawful a b) (fifo : c.fifo.length ≤ b.con.fifo.length) :
    Body.Lawful a (b.setCon c) := h.trans (Body.Lawful.of rfl fifo rfl fun _ => rfl)

/-- R162: an event enters only where there is room. -/
theorem consoleArrival_lawful (e : Env) (kind : ConsoleKind) (h : Body.Lawful a b) :
    Body.Lawful a (b.consoleArrival e kind) := by
  unfold Body.consoleArrival
  dsimp only
  split
  · rename_i room
    refine h.trans fun l hl => ?_
    cases l with
    | fifoFits =>
      show (b.con.fifo ++ [_]).length ≤ 64
      rw [List.length_append]
      exact room
    | _ => exact hl
  · exact setCon_lawful h (Nat.le_refl _)

theorem frameArrival_lawful (e : Env) (x : FrameEvent) (h : Body.Lawful a b) :
    Body.Lawful a (b.frameArrival e x) := by
  cases x with
  | event kind => exact consoleArrival_lawful e kind h
  | alive => exact h
  | malformed => exact setCon_lawful h (Nat.le_refl _)

theorem frameSeen_lawful (e : Env) : Body.Lawful b (b.frameSeen e) :=
  setCon_lawful (Body.Lawful.refl b) (Nat.le_refl _)

theorem Console.beginFrame_fifo (c : Console) (x : Byte) : (c.beginFrame x).fifo = c.fifo := by
  unfold Console.beginFrame
  split <;> rfl

theorem linkByte_lawful (e : Env) (x : Byte) : Body.Lawful b (b.linkByte e x) := by
  have seen : Body.Lawful b (b.linkByteSeen e) := setCon_lawful (Body.Lawful.refl b) (Nat.le_refl _)
  have begun : ∀ c : Console, c.fifo = b.con.fifo →
      Body.Lawful b ((b.linkByteSeen e).setCon (c.beginFrame x)) := fun c hc =>
    setCon_lawful seen (by rw [Console.beginFrame_fifo, hc]; exact Nat.le_refl _)
  unfold Body.linkByte
  dsimp only
  split
  · split
    · exact begun _ rfl
    · split
      · exact seen
      · exact setCon_lawful seen (Nat.le_refl _)
  · split
    · exact begun _ rfl
    · split
      · exact frameArrival_lawful e _ (setCon_lawful seen (Nat.le_refl _))
      · exact setCon_lawful seen (Nat.le_refl _)

theorem Console.reportSent_fifo (c : Console) (r : Report) : (c.reportSent r).fifo = c.fifo := by
  unfold Console.reportSent
  split <;> rfl

theorem Console.transmit_fifo (c : Console) : c.transmit.fifo = c.fifo := by
  unfold Console.transmit
  split <;> rfl

end Console

/-! ### The tune slots -/

section Slots

variable {b : Body}

theorem Body.slot_setSlot_same {n : Nat} (x : Slot) (h : n < b.slots.length) : (b.setSlot n x).slot n = x := by
  unfold Body.slot
  rw [Body.setSlot_slots, List.getD_eq_getElem _ _ (by simpa using h), List.getElem_set_self]

theorem Body.slot_setSlot_other {n k : Nat} (x : Slot) (h : k ≠ n) : (b.setSlot n x).slot k = b.slot k := by
  unfold Body.slot
  rw [Body.setSlot_slots, List.getD_eq_getElem?_getD, List.getElem?_set_ne (Ne.symm h),
    List.getD_eq_getElem?_getD]

theorem Body.setSlot_beyond {n : Nat} (x : Slot) (h : b.slots.length ≤ n) : b.setSlot n x = b := by
  unfold Body.setSlot
  rw [List.set_eq_of_length_le h]

theorem Body.setSlot_setSlot (n : Nat) (x y : Slot) : (b.setSlot n x).setSlot n y = b.setSlot n y := by
  unfold Body.setSlot
  simp

/-- A slot number beyond the slots reads as an empty slot. -/
theorem Body.slot_beyond {n : Nat} (h : b.slots.length ≤ n) : b.slot n = Slot.emptySlot := by
  unfold Body.slot
  rw [List.getD_eq_getElem?_getD, List.getElem?_eq_none h]
  rfl

/-- What a slot is after any slot is written: written, or as it was. -/
theorem Body.slot_setSlot_cases (n k : Nat) (x : Slot) :
    (b.setSlot n x).slot k = b.slot k ∨ k = n ∧ (b.setSlot n x).slot k = x := by
  by_cases hk : k = n
  · subst hk
    by_cases inside : k < b.slots.length
    · exact Or.inr ⟨rfl, Body.slot_setSlot_same x inside⟩
    · exact Or.inl (by rw [Body.setSlot_beyond x (by omega)])
  · exact Or.inl (Body.slot_setSlot_other x hk)

/-- R127: a slot leaves WRITING, or stays in its state. -/
theorem setSlot_lawful (n : Nat) (x : Slot) (h : x.state ≠ .writing ∨ x.state = (b.slot n).state) :
    Body.Lawful b (b.setSlot n x) := by
  intro l hl
  cases l with
  | oneWriting =>
    have before : ∀ k, ((b.setSlot n x).slot k).state = .writing → (b.slot k).state = .writing := by
      intro k hk
      obtain same | ⟨rfl, written⟩ := b.slot_setSlot_cases n k x
      · rwa [same] at hk
      · rw [written] at hk
        obtain left | stays := h
        · exact absurd hk left
        · rwa [stays] at hk
    exact fun i hi j hj wi wj => hl i hi j hj (before i wi) (before j wj)
  | _ => exact hl

/-- R129: once the other WRITING slot is abandoned, no other slot is WRITING. -/
theorem openSlot_others (o : OpenTune) (h : b.OneWriting) {k : Nat} (hk : k < 64) (other : k ≠ o.slot) :
    ((b.openSlot o).slot k).state ≠ .writing := by
  have opened : ∀ c : Body, (((c.setSlot o.slot Slot.emptySlot).allocate o).slot k) = c.slot k := by
    intro c
    unfold Body.allocate
    rw [Body.slot_setSlot_other _ other, Body.slot_setSlot_other _ other]
  unfold Body.openSlot
  rw [opened]
  split
  · rename_i w hw
    obtain ⟨writing, inside⟩ : (b.slot w).state = .writing ∧ w < 64 := by
      have found := List.find?_some hw
      have mem := List.mem_of_find?_eq_some hw
      simp only [Bool.and_eq_true, beq_iff_eq, List.mem_range] at found mem
      exact ⟨found.2, mem⟩
    intro hs
    obtain same | ⟨_, written⟩ := b.slot_setSlot_cases w k Slot.emptySlot
    · rw [Body.abandonSlot, same] at hs
      obtain rfl := h k hk w inside hs writing
      by_cases len : k < b.slots.length
      · rw [Body.slot_setSlot_same _ len] at same
        rw [← same] at hs
        cases hs
      · rw [Body.slot_beyond (by omega)] at hs
        cases hs
    · rw [Body.abandonSlot, written] at hs
      cases hs
  · rename_i hw
    intro hs
    have found := List.find?_eq_none.mp hw k (List.mem_range.mpr hk)
    simp [other, hs] at found

theorem openSlot_lawful (o : OpenTune) : Body.Lawful b (b.openSlot o) := by
  intro l hl
  have rest : (b.openSlot o).sched = b.sched ∧ (b.openSlot o).con = b.con ∧ (b.openSlot o).bus = b.bus := by
    unfold Body.openSlot
    split <;> exact ⟨rfl, rfl, rfl⟩
  obtain ⟨sched, con, bus⟩ := rest
  have same : Body.Lawful b { b.openSlot o with slots := b.slots } :=
    Body.Lawful.of sched (Nat.le_of_eq (by rw [← con])) (by rw [← bus]) fun _ => rfl
  cases l with
  | oneWriting =>
    intro i hi j hj wi wj
    by_cases left : i = o.slot
    · by_cases right : j = o.slot
      · exact left.trans right.symm
      · exact absurd wj (openSlot_others o hl hj right)
    · exact absurd wi (openSlot_others o hl hi left)
  | accounts => exact same .accounts hl
  | ordered => exact same .ordered hl
  | queueFits => exact same .queueFits hl
  | fifoFits => exact same .fifoFits hl
  | oneOrderEach => exact same .oneOrderEach hl
  | ordersInTurn => exact same .ordersInTurn hl
  | serves => exact same .serves hl

theorem abandonSlot_lawful (n : Nat) : Body.Lawful b (b.abandonSlot n) :=
  setSlot_lawful n _ (Or.inl nofun)

end Slots

end Sys2Proof.Machine
end

section
/-! SUPPORT. The Time Base, the configuration load, the resets and the owners of commands keep every law. -/

namespace Sys2Proof.Machine

set_option Elab.async false

/-! ### The Time Base -/

section Time

variable {t u : TimeBase}

theorem TimeBase.Lawful.refl (t : TimeBase) : TimeBase.Lawful t t := ⟨id, id⟩

/-- R2, R4: where a Tower Time stands the clock is set. -/
theorem TimeBase.WithClock.set (h : t.WithClock) (tower : t.tower ≠ none) : t.clock ≠ .unset :=
  fun unset => tower (h.1.mp unset)

/-- R13: in another state than HOLDOVER no load is pending, and so no whole second is waited for. -/
theorem TimeBase.WithClock.noLoad (h : t.WithClock) (clock : t.clock ≠ .holdover) :
    t.pendingLoad = none ∧ t.wholeSecond = false := by
  obtain ⟨_, pending, second⟩ := h
  have none : t.pendingLoad = none := Classical.byContradiction fun some => clock (pending some)
  refine ⟨none, Bool.eq_false_iff.mpr fun waits => second waits none⟩

theorem TimeBase.addMs_lawful (h : TimeBase.Lawful t u) : TimeBase.Lawful t u.addMs := by
  unfold TimeBase.addMs
  split
  · exact h
  · rename_i w tower
    refine ⟨h.range, fun clock => ?_⟩
    obtain ⟨unset, pending, second⟩ := h.clock clock
    refine ⟨?_, pending, fun waits => ?_⟩
    · rw [tower] at unset
      simpa using unset
    · rcases Bool.or_eq_true_iff.mp waits with before | reached
      · exact second before
      · exact Option.isSome_iff_ne_none.mp (Bool.and_eq_true_iff.mp reached).1

theorem TimeBase.towerTick_lawful (h : TimeBase.Lawful t u) : TimeBase.Lawful t u.towerTick := by
  unfold TimeBase.towerTick
  split
  · exact h
  · split
    · exact ⟨h.range, h.clock⟩
    · split
      · exact ⟨h.range, h.clock⟩
      · exact TimeBase.addMs_lawful (u := { u with phase := 0 }) ⟨h.range, h.clock⟩

theorem TimeBase.tick_lawful (t : TimeBase) : TimeBase.Lawful t t.tick where
  range _ := Nat.min_le_left _ _
  clock := (TimeBase.towerTick_lawful (TimeBase.Lawful.refl t)).clock

theorem TimeBase.heldTick_lawful (t : TimeBase) : TimeBase.Lawful t t.heldTick :=
  have h := TimeBase.towerTick_lawful (t := t) (u := { t with withhold := false }) ⟨id, id⟩
  ⟨h.range, h.clock⟩

theorem TimeBase.slewEnd_lawful (t : TimeBase) : TimeBase.Lawful t t.slewEnd := by
  unfold TimeBase.slewEnd
  dsimp only
  split
  · exact TimeBase.addMs_lawful
      (u := { t with slewStart := t.slewStart + 512, slew := t.slew - 1 }) ⟨id, id⟩
  · exact ⟨id, id⟩

theorem TimeBase.judgeTelegram_lawful (t : TimeBase) (bytes : List Byte) :
    TimeBase.Lawful t (t.judgeTelegram bytes) := by
  unfold TimeBase.judgeTelegram
  split <;> exact ⟨id, id⟩

theorem TimeBase.telegramByte_lawful (t : TimeBase) (x : Byte) : TimeBase.Lawful t (t.telegramByte x) := by
  unfold TimeBase.telegramByte
  split
  · split
    · exact ⟨id, id⟩
    · split <;> exact ⟨id, id⟩
  · dsimp only
    split
    · exact TimeBase.judgeTelegram_lawful t _
    · exact ⟨id, id⟩

theorem TimeBase.slewBy_lawful (t : TimeBase) (offset : Int) : TimeBase.Lawful t (t.slewBy offset) := by
  unfold TimeBase.slewBy
  split <;> exact ⟨id, id⟩

/-- R4: the clock is LOCKED and a Tower Time stands, and no load is pending. -/
theorem TimeBase.withClock_locked {w : TowerTime} (clock : t.clock = .locked) (tower : t.tower = some w)
    (load : t.pendingLoad = none ∧ t.wholeSecond = false) : t.WithClock := by
  obtain ⟨none, second⟩ := load
  refine ⟨?_, fun some => absurd none some, fun waits => ?_⟩
  · simp [clock, tower]
  · exact absurd (second.symm.trans waits) Bool.false_ne_true

end Time

variable {s t : State}

theorem lawful_changeTime (before : Option TowerTime) (after : TowerTime) (h : State.Lawful s t) :
    State.Lawful s (t.changeTime before after) :=
  lawful_act h (keeps_timeChange _ _ _ (Body.Keeps.refl _)).lawful

/-- R11: a step replaces one Tower Time by another. -/
theorem lawful_stepTime (w : TowerTime) (source : StepSource) (h : State.Lawful s t)
    (tower : s.time.WithClock → t.time.tower ≠ none) : State.Lawful s (t.stepTime w source) := by
  have stepped : ∀ x : TimeBase, x.runTime = t.time.runTime → x.clock = t.time.clock →
      x.tower = some w → x.pendingLoad = t.time.pendingLoad → x.wholeSecond = t.time.wholeSecond →
      State.Lawful s (t.setTime x) := by
    intro x run clock some load second
    refine lawful_setTime_of h (by rw [run]; exact id) fun hs ht => ?_
    unfold TimeBase.WithClock
    rw [clock, load, second, some]
    exact ⟨iff_of_false (ht.set (tower hs)) nofun, ht.2⟩
  exact lawful_ite (stepped _ rfl rfl rfl rfl rfl)
    (lawful_changeTime _ _ (lawful_raise _ (stepped _ rfl rfl rfl rfl rfl)))

/-- R8. -/
theorem lawful_startByMark (w : TowerTime) (h : State.Lawful s t) (tower : t.time.tower = none) :
    State.Lawful s (t.startByMark w) := by
  refine lawful_changeTime _ _ (lawful_raise _ (lawful_setTime h ⟨id, fun k => ?_⟩))
  have unset : t.time.clock = .unset := k.1.mpr tower
  exact TimeBase.withClock_locked rfl rfl (k.noLoad (by rw [unset]; exact nofun))

/-- R9, R13. -/
theorem lawful_lockByMark (offset : Int) {v : TowerTime} (h : State.Lawful s t) (tower : t.time.tower = some v) :
    State.Lawful s (t.lockByMark offset) := by
  have locked : State.Lawful s (t.setTime (
      let x := { t.time with lastOffset := some offset, clock := .locked }
      if x.pendingLoad.isSome then
        { x with pendingLoad := none, wholeSecond := false, loadStatus := .discarded } else x)) := by
    refine lawful_setTime h ?_
    dsimp only
    split
    · exact ⟨id, fun _ => TimeBase.withClock_locked rfl tower ⟨rfl, rfl⟩⟩
    · rename_i load
      have none : t.time.pendingLoad = none := by simpa using load
      refine ⟨id, fun k => TimeBase.withClock_locked rfl tower ⟨none, ?_⟩⟩
      exact Bool.eq_false_iff.mpr fun waits => k.2.2 waits none
  exact lawful_ite (lawful_raise _ locked) locked

theorem State.lockByMark_tower (s : State) (offset : Int) : (s.lockByMark offset).time.tower = s.time.tower := by
  unfold State.lockByMark
  dsimp only
  split <;> split <;> rfl

/-- R9: the weekday alone is replaced. -/
theorem lawful_replaceWeekday (present held : TowerTime) (h : State.Lawful s t)
    (tower : t.time.tower = some present) : State.Lawful s (t.replaceWeekday present held) := by
  refine lawful_ite (lawful_act (lawful_setTime h ⟨id, fun k => ?_⟩)
    (keeps_recomputeAll _ (Body.Keeps.refl _)).lawful) h
  refine ⟨iff_of_false (k.set ?_) nofun, k.2.1, k.2.2⟩
  rw [tower]
  exact nofun

theorem TimeBase.slewBy_tower (t : TimeBase) (offset : Int) : (t.slewBy offset).tower = t.tower := by
  unfold TimeBase.slewBy
  split <;> rfl

theorem lawful_disciplineByMark (present held : TowerTime) (h : State.Lawful s t)
    (tower : t.time.tower = some present) : State.Lawful s (t.disciplineByMark present held) := by
  have locked := lawful_lockByMark (held.offset present) h tower
  have stands := (State.lockByMark_tower t (held.offset present)).trans tower
  refine lawful_ite (lawful_stepTime _ _ locked fun _ => ?_)
    (lawful_replaceWeekday _ _ (lawful_setTime locked (TimeBase.slewBy_lawful _ _)) ?_)
  · rw [stands]
    exact nofun
  · rw [State.setTime_time, TimeBase.slewBy_tower, stands]

theorem lawful_acceptMark (held : TowerTime) (h : State.Lawful s t) : State.Lawful s (t.acceptMark held) := by
  have counted : State.Lawful s (t.setTime { t.time with
      marks := t.time.marks + 1, held := none, lastMark := some t.now }) :=
    lawful_setTime h ⟨id, id⟩
  unfold State.acceptMark
  dsimp only
  split
  · exact lawful_startByMark _ counted ‹_›
  · exact lawful_disciplineByMark _ _ counted ‹_›

theorem lawful_ownSetTime (w : TowerTime) (h : State.Lawful s t) : State.Lawful s (t.ownSetTime w).1 := by
  unfold State.ownSetTime
  split
  · exact h
  · rename_i unset
    refine lawful_changeTime _ _ (lawful_raise _ (lawful_setTime h ⟨id, fun k => ?_⟩))
    obtain ⟨load, second⟩ := k.noLoad (by rw [unset]; exact nofun)
    exact ⟨iff_of_false nofun nofun, fun _ => rfl, fun waits =>
      absurd (second.symm.trans waits) Bool.false_ne_true⟩
  · rename_i holdover
    exact lawful_setTime h ⟨id, fun k => ⟨k.1, fun _ => holdover, fun _ => nofun⟩⟩

/-! ### The configuration load -/

theorem State.loadedRecord_sound (s : State) (i : Nat) {item : Option (Bool × Calibration)}
    (h : ∀ x ∈ item, x.2.Sound) : (s.loadedRecord i item).1.2.Sound := by
  unfold State.loadedRecord
  dsimp only
  split
  · exact defaultCalibration_sound _
  · cases usable : item.filter fun x => boardWithin s.body.port.boards (s.bell i).present x.2 with
    | none => exact defaultCalibration_sound _
    | some x => exact h x (Option.filter_eq_some_iff.mp usable).1

theorem readBellRecord_sound {bytes : List Byte} {x : Bool × Calibration} (h : readBellRecord bytes = some x) :
    x.2.Sound := by
  unfold readBellRecord at h
  obtain ⟨_, _, h⟩ := Option.bind_eq_some_iff.mp h
  obtain ⟨c, parsed, rfl⟩ := Option.map_eq_some_iff.mp h
  exact parseCalibration_sound parsed

theorem lawful_loadBell (i : Nat) {item : Option (Bool × Calibration)} (sound : ∀ x ∈ item, x.2.Sound)
    (h : State.Lawful s t) : State.Lawful s (t.loadBell i item).1 := by
  have written : State.Lawful s (t.writeBell i { (t.bell i).calibrate (t.loadedRecord i item).1.2 with
      calibrated := (t.loadedRecord i item).1.1
      boardOnline := (t.bell i).present && t.body.placedOnline (t.loadedRecord i item).1.2.placement }) :=
    lawful_writeBell h fun _ => (t.loadedRecord_sound i sound).bell (r := t.bell i)
  exact lawful_ite (lawful_setHammer _ _ written) written

theorem lawful_loadBells (items : List Byte) (h : State.Lawful s t) : State.Lawful s (t.loadBells items).1 := by
  refine lawful_foldl_fst _ _ _ (fun r i k => lawful_loadBell i (fun x hx => ?_) k) h
  split at hx
  · exact readBellRecord_sound hx
  · cases hx

theorem lawful_loadSlot (o : OpenTune) (records : List (List Byte)) (crc : Nat) (h : State.Lawful s t) :
    State.Lawful s (t.loadSlot o records crc) := by
  refine lawful_setBody (lawful_memory h fun wf => Memory.wf_writeRecords _ _ _ wf) ?_
  unfold Body.allocate
  rw [Body.setSlot_setSlot]
  exact setSlot_lawful _ _ (Or.inl nofun)

theorem lawful_loadSlots (n : Nat) (bytes : List Byte) (named : List Nat) (h : State.Lawful s t) :
    State.Lawful s (t.loadSlots n bytes named).1 := by
  induction n generalizing bytes named t with
  | zero => exact h
  | succ n ih =>
    unfold State.loadSlots
    dsimp only
    split
    · exact h
    · exact ih _ _ (lawful_ite (lawful_loadSlot _ _ _ h) h)

theorem lawful_maps (a b : List MapEntry) (h : State.Lawful s t) :
    State.Lawful s { t with mapA := a, mapB := b } := lawful_setMap .b b (lawful_setMap .a a h)

theorem lawful_applySection (k : Nat) (items : List Byte) (h : State.Lawful s t) :
    State.Lawful s (t.applySection k items).1 := by
  unfold State.applySection
  split
  · exact lawful_loadBells _ h
  · exact lawful_maps _ _ h
  · exact lawful_setBody h (Body.Lawful.of rfl (Nat.le_refl _) rfl fun _ => rfl)
  · exact lawful_loadSlots _ _ _ h

theorem lawful_recordSection (k : Nat) (result : SectionResult) (n : Nat) (h : State.Lawful s t) :
    State.Lawful s (t.recordSection k result n) :=
  lawful_ite (lawful_setPort _ h) (lawful_raise _ (lawful_setPort _ h))

theorem lawful_sectionRead (k : Nat) (read : Option (List Byte)) (h : State.Lawful s t) :
    State.Lawful s (t.sectionRead k read) := by
  unfold State.sectionRead
  dsimp only
  split
  · exact lawful_recordSection _ _ _ h
  · exact lawful_recordSection _ _ _ (lawful_applySection _ _ h)

/-! ### The resets -/

theorem Slot.warm_state (x : Slot) : x.warm.state ≠ .writing := by
  unfold Slot.warm
  split
  · exact nofun
  · assumption

/-- R199: the warm-reset values meet every law of the blocks, but for the note records and the Time Base, which
keep theirs. -/
theorem warm_lawful (s : State) (l : BodyLaw) : (Law.body l).Holds s.warm := by
  refine ⟨?_, fun _ _ => rfl⟩
  cases l with
  | accounts => rfl
  | ordered => exact List.Pairwise.nil
  | queueFits => exact ⟨Nat.zero_le _, Nat.zero_le _, fun _ _ _ => Nat.zero_le _⟩
  | fifoFits => exact Nat.zero_le _
  | oneOrderEach => exact List.nodup_nil
  | ordersInTurn => exact List.Pairwise.nil
  | serves => exact ⟨fun _ => rfl, fun _ _ hl => by cases hl⟩
  | oneWriting =>
    intro i _ j _ hi _
    exfalso
    revert hi
    show ((s.body.slots.map Slot.warm).getD i Slot.emptySlot).state ≠ .writing
    rw [List.getD_eq_getElem?_getD, List.getElem?_map]
    cases s.body.slots[i]? with
    | none => exact nofun
    | some x => exact x.warm_state

theorem TimeBase.warm_withClock {t : TimeBase} (h : t.WithClock) : t.warm.WithClock :=
  ⟨h.1, fun load => absurd rfl load, nofun⟩

theorem State.warm_keepsLaws (s : State) : State.KeepsLaws s s.warm := by
  intro l hl
  cases l with
  | memory => exact hl
  | runTime => exact Nat.zero_le _
  | tower => exact TimeBase.warm_withClock hl
  | available =>
    intro r hr
    obtain ⟨x, _, rfl⟩ := List.mem_map.mp hr
    simp [Bell.warmReset, Bell.mayBeStruck]
  | flights =>
    intro r hr
    obtain ⟨x, mem, rfl⟩ := List.mem_map.mp hr
    exact hl x mem
  | body l => exact warm_lawful s l

/-- No order stands and no frame of an order is on the line. -/
def Body.NoOrders (b : Body) : Prop :=
  b.bus.sendList = [] ∧ ∀ bell ends, b.bus.line ≠ .actuate bell ends false

theorem LineServesOrders.noOrders (h : s.body.LineServesOrders) (empty : s.body.bus.sendList = []) :
    s.body.NoOrders := by
  refine ⟨empty, fun bell ends hl => ?_⟩
  obtain ⟨o, mem, _⟩ := h.2 bell ends hl
  rw [empty] at mem
  cases mem

/-- R199: the release, of a part in which no order stands. -/
theorem leaveReset_keepsLaws (cause : ResetCause)
    (noOrders : (Law.body .serves).Holds s → s.body.NoOrders) :
    State.KeepsLaws s (s.leaveReset cause) ∧ (s.leaveReset cause).pending = s.pending := by
  let u : State := { s with
    rst := { asserted := false, held := false, deferred := false }
    body := { s.body with
      sched := { s.body.sched with access := s.belfry }
      bus := { s.body.bus with access := s.belfry }
      port := { s.body.port with lastCause := cause, warmResets := s.body.port.warmResets + 1 } } }
  have released : State.KeepsLaws s u := by
    intro l hl
    cases l with
    | body l =>
      refine Law.holds_of_free rfl ?_
      cases l with
      | serves =>
        obtain ⟨empty, line⟩ := noOrders hl
        exact ⟨fun _ => empty, fun bell ends h => absurd h (line bell ends)⟩
      | _ => exact hl.1
    | _ => exact hl
  have acts := lawful_act (f := fun e b => b.recomputeAll e) (State.Lawful.refl (s := u) rfl)
    (keeps_recomputeAll _ (Body.Keeps.refl _)).lawful
  exact ⟨released.trans acts.laws, acts.pending⟩

theorem warm_noOrders (s : State) : s.warm.body.NoOrders := ⟨rfl, fun _ _ hl => by cases hl⟩

theorem restart_lawful (h : State.Lawful s t) : State.Lawful s t.restart := by
  obtain ⟨laws, pending⟩ := leaveReset_keepsLaws (s := t.warm) .command fun _ => warm_noOrders t
  exact ⟨pending.trans h.pending, rfl, h.laws.trans (t.warm_keepsLaws.trans laws)⟩

theorem deferredReset_keepsLaws (s : State) :
    State.KeepsLaws s s.deferredReset ∧ s.deferredReset.pending = s.pending := by
  unfold State.deferredReset
  split
  · dsimp only
    split
    · refine ⟨fun l hl => ?_, rfl⟩
      have warm := s.warm_keepsLaws l hl
      cases l with
      | body l => exact ⟨warm.1, fun _ _ => rfl⟩
      | _ => exact warm
    · obtain ⟨laws, pending⟩ := leaveReset_keepsLaws (s := s.warm) .line fun _ => warm_noOrders s
      exact ⟨s.warm_keepsLaws.trans laws, pending⟩
  · exact ⟨State.KeepsLaws.refl s, rfl⟩

/-- R198: the load ends, and with it a deferred reset is taken, which may hold the part. -/
theorem loadEnd_keepsLaws (h : State.Lawful s t) :
    State.KeepsLaws s t.loadEnd ∧ t.loadEnd.pending = s.pending := by
  have acts := lawful_act (f := fun e b => b.recomputeAll e)
    (lawful_setPort { t.body.port with loading := false } h)
    (keeps_recomputeAll _ (Body.Keeps.refl _)).lawful
  obtain ⟨laws, pending⟩ := deferredReset_keepsLaws
    ((t.setPort { t.body.port with loading := false }).act fun e b => b.recomputeAll e)
  exact ⟨acts.laws.trans laws, pending.trans acts.pending⟩

end Sys2Proof.Machine
end

section
/-! SUPPORT. Every command goes on, leaves the queue of commands alone and keeps every law; and so does every step. The
invariants of the part (O3, O5 to O15) are read off from this. -/

namespace Sys2Proof.Machine

set_option Elab.async false

variable {s t : State}

/-! ### What an event or an owner does to the blocks -/

theorem acts_keeps {f : Env → Body → Body} (h : State.Lawful s t)
    (k : ∀ (e : Env) (b : Body), Body.Keeps b (f e b)) : State.Lawful s (t.act f) :=
  lawful_act h (k _ _).lawful

/-- An event that changes nothing, or acts by operations that blocks use on one another. -/
theorem running_acts {p : State → Bool} {f : Env → Body → Body}
    (k : ∀ (e : Env) (b : Body), Body.Keeps b (f e b)) :
    Result.Lawful s (s.running fun s => if p s then s.act f else s) :=
  State.running_lawful fun free =>
    lawful_ite (acts_keeps (State.Lawful.refl free) k) (State.Lawful.refl free)

theorem running_setTime {f : TimeBase → TimeBase} (k : ∀ t, TimeBase.Lawful t (f t)) :
    Result.Lawful s (s.running fun s => s.setTime (f s.time)) :=
  State.running_lawful fun free => lawful_setTime (State.Lawful.refl free) (k _)

theorem running_setTime_ite {p : State → Bool} {f : TimeBase → TimeBase}
    (k : ∀ t, TimeBase.Lawful t (f t)) :
    Result.Lawful s (s.running fun s => if p s then s.setTime (f s.time) else s) :=
  State.running_lawful fun free =>
    lawful_ite (lawful_setTime (State.Lawful.refl free) (k _)) (State.Lawful.refl free)

/-- R161: a frame's arrival at the console. -/
theorem running_frame (x : FrameEvent) :
    Result.Lawful s (s.running fun s => s.act fun e b => (b.frameSeen e).frameArrival e x) :=
  State.running_lawful fun free =>
    lawful_act (State.Lawful.refl free) (frameArrival_lawful _ _ (frameSeen_lawful _))

theorem running_frame_quiet (x : FrameEvent) :
    Result.Lawful s (s.running fun s => s.setBody ((s.body.frameSeen s.env).frameArrival s.env x)) :=
  State.running_lawful fun free =>
    lawful_setBody (State.Lawful.refl free) (frameArrival_lawful _ _ (frameSeen_lawful _))

/-- An owner that may refuse, and otherwise acts by operations that blocks use on one another. -/
theorem owner_acts {p : Prop} [Decidable p] {status : Status} {bytes : List Byte} {f : Env → Body → Body}
    (h : State.Lawful s t) (k : ∀ (e : Env) (b : Body), Body.Keeps b (f e b)) :
    State.Lawful s (if p then t.refuse status else (t.act f).done bytes).1 := by
  split
  · exact h
  · exact acts_keeps h k

theorem keeps_finishPlayer {a b : Body} (now p : Nat) (h : Body.Keeps a b) :
    Body.Keeps a (b.finishPlayer now p) :=
  keeps_ite (keeps_drain _ _ (keeps_modPlayer _ _ h)) (keeps_modPlayer _ _ h)

theorem keeps_stopPlayer {a b : Body} (now p : Nat) (h : Body.Keeps a b) :
    Body.Keeps a (b.stopPlayer now p) := keeps_enterFree _ _ _ (keeps_withdrawPlayer _ h)

theorem closeDrain_lawful {b : Body} (e : Env) (cause : CloseCause) (n : Counter) :
    Body.Lawful b ((b.setCon { b.con with linkLost := n }).closeDrain e cause) :=
  (setCon_lawful (c := { b.con with linkLost := n }) (Body.Lawful.refl b) (Nat.le_refl _)).trans
    (keeps_closeDrain e cause (Body.Keeps.refl _)).lawful

/-! ### The owners of requests -/

theorem lawful_ownTestStrike (x : Nat × Nat) (h : State.Lawful s t) :
    State.Lawful s (t.ownTestStrike x).1 := by
  have decided : State.Lawful s
      (t.setBody (t.body.decideAdmission t.env (t.testRequest x.1 x.2)).1).finish :=
    lawful_finish (lawful_keeps h (keeps_admit _ _ (Body.Keeps.refl _)))
  unfold State.ownTestStrike
  split
  · exact h
  · split
    · exact h
    · dsimp only
      split <;> exact decided

theorem lawful_ownSetBell (x : Nat × Calibration) (sound : x.2.Sound) (h : State.Lawful s t) :
    State.Lawful s (t.ownSetBell x).1 := by
  unfold State.ownSetBell
  split
  · exact h
  · exact lawful_finish (lawful_writeBell h fun _ => sound.bell (r := t.bell x.1))

theorem parseSetBell_sound {p : List Byte} {x : Nat × Calibration} (h : parseSetBell p = some x) :
    x.2.Sound := by
  unfold parseSetBell at h
  split at h
  · obtain ⟨c, parsed, rfl⟩ := Option.map_eq_some_iff.mp h
    exact parseCalibration_sound parsed
  · cases h

theorem lawful_ownRestore (n : Nat) (h : State.Lawful s t) : State.Lawful s (t.ownRestore n).1 := by
  unfold State.ownRestore
  split
  · exact h
  · exact lawful_finish (lawful_writeBell h id)

theorem lawful_ownSetQueue (x : List Nat × Nat × Nat) (h : State.Lawful s t) :
    State.Lawful s (t.ownSetQueue x).1 := by
  unfold State.ownSetQueue
  split
  · exact h
  · rename_i room
    exact lawful_act (f := fun e b => b.takeSettings e.now x.1 x.2.1 x.2.2) h
      (takeSettings_lawful _ _ _ (Bool.eq_false_iff.mpr room))

theorem lawful_ownPlayNow (x : Option Nat × EntryKind × PerfFields) (h : State.Lawful s t) :
    State.Lawful s (t.ownPlayNow x).1 := by
  unfold State.ownPlayNow
  split
  · exact h
  · split
    · exact h
    · exact acts_keeps h fun e b => keeps_launch e _ (Body.Keeps.refl b)

theorem lawful_ownStopPlayer (x : Nat × StopVariant) (h : State.Lawful s t) :
    State.Lawful s (t.ownStopPlayer x).1 := by
  refine owner_acts h fun e b => ?_
  split
  · exact keeps_stopPlayer _ _ (Body.Keeps.refl b)
  · exact keeps_finishPlayer _ _ (Body.Keeps.refl b)

theorem lawful_ownOpenTune (o : OpenTune) (h : State.Lawful s t) : State.Lawful s (t.ownOpenTune o).1 := by
  unfold State.ownOpenTune
  split
  · exact h
  · exact lawful_setBody h (openSlot_lawful o)

theorem lawful_ownWriteTune (x : Nat × Nat × List (List Byte)) (h : State.Lawful s t) :
    State.Lawful s (t.ownWriteTune x).1 := by
  unfold State.ownWriteTune
  split
  · exact h
  · exact lawful_setBody (lawful_memory h fun wf => Memory.wf_writeRecords _ _ _ wf)
      (setSlot_lawful _ _ (Or.inr rfl))

theorem lawful_ownCloseTune (x : Nat × BitVec 16) (h : State.Lawful s t) :
    State.Lawful s (t.ownCloseTune x).1 := by
  unfold State.ownCloseTune
  dsimp only
  split
  · exact h
  · split
    · exact lawful_setBody h (abandonSlot_lawful _)
    · split
      · exact lawful_setBody h (setSlot_lawful _ _ (Or.inl nofun))
      · exact lawful_setBody h (abandonSlot_lawful _)

theorem lawful_ownEraseTune (n : Nat) (h : State.Lawful s t) : State.Lawful s (t.ownEraseTune n).1 := by
  unfold State.ownEraseTune
  split
  · exact h
  · exact lawful_setBody h (abandonSlot_lawful _)

theorem lawful_ownWriteMap (x : MapId × Nat × List MapEntry) (h : State.Lawful s t) :
    State.Lawful s (t.ownWriteMap x).1 := by
  unfold State.ownWriteMap
  have written := lawful_setMap x.1 (writeEntries (t.map x.1) x.2.1 x.2.2) h
  dsimp only
  split
  · exact acts_keeps written fun e b => keeps_recomputeLamps e _ (Body.Keeps.refl b)
  · exact written

theorem lawful_ownClearEntry (n : Nat) (h : State.Lawful s t) : State.Lawful s (t.ownClearEntry n).1 := by
  unfold State.ownClearEntry
  split
  · exact h
  · exact lawful_keeps h (keeps_setEntry _ _ (Body.Keeps.refl _))

theorem lawful_ownSetConsole (c : ConsoleSettings) (h : State.Lawful s t) :
    State.Lawful s (t.ownSetConsole c).1 := by
  unfold State.ownSetConsole
  split
  · exact h
  · exact lawful_setBody h (setCon_lawful (Body.Lawful.refl _) (Nat.le_refl _))

theorem lawful_ownEndConsole (x : EndVariant) (h : State.Lawful s t) :
    State.Lawful s (t.ownEndConsole x).1 := by
  unfold State.ownEndConsole
  split
  · exact h
  · cases x with
    | drain =>
      dsimp only
      split
      · exact acts_keeps h fun e b => keeps_closeDrain e _ (Body.Keeps.refl b)
      · exact h
    | cut => exact acts_keeps h fun e b => keeps_closeCut e (Body.Keeps.refl b)

theorem lawful_ownSnapshot (h : State.Lawful s t) : State.Lawful s t.ownSnapshot.1 := by
  unfold State.ownSnapshot
  split
  · exact h
  · exact lawful_setTime h ⟨id, id⟩

theorem lawful_ownReadSnapshot (h : State.Lawful s t) : State.Lawful s t.ownReadSnapshot.1 := by
  unfold State.ownReadSnapshot
  split
  · exact h
  · exact lawful_setTime h ⟨id, id⟩

/-! ### The events -/

theorem mark_lawful (s : State) : Result.Lawful s (execMark s) := by
  refine State.running_lawful fun free => ?_
  have here := State.Lawful.refl free
  split
  · exact lawful_setTime here ⟨id, id⟩
  · split
    · exact lawful_setTime here ⟨id, id⟩
    · exact lawful_acceptMark _ here

/-- R5: a holdover deadline is due in LOCKED alone. -/
theorem State.holdoverDue_locked (h : s.holdoverDue = true) : s.time.clock = .locked := by
  unfold State.holdoverDue TimeBase.holdoverDeadline at h
  split at h
  · assumption
  · cases h

theorem holdoverDeadline_lawful (s : State) : Result.Lawful s (execHoldoverDeadline s) := by
  refine State.running_lawful fun free => ?_
  have here := State.Lawful.refl free
  split
  · rename_i due
    refine lawful_raise _ (lawful_setTime here ⟨id, fun k => ?_⟩)
    have set : s.time.clock ≠ .unset := by
      rw [State.holdoverDue_locked due]
      exact nofun
    exact ⟨iff_of_false nofun fun none => set (k.1.mpr none), fun _ => rfl, k.2.2⟩
  · exact here

theorem pendingLoadWholeSecond_lawful (s : State) : Result.Lawful s (execPendingLoadWholeSecond s) := by
  refine State.running_lawful fun free => ?_
  have here := State.Lawful.refl free
  split
  · exact here
  · rename_i w load
    -- a load is pending only in HOLDOVER, where a Tower Time stands
    have stands : s.time.WithClock → s.time.tower ≠ none := fun k none => by
      have unset := k.1.mpr none
      rw [k.2.1 (by rw [load]; exact nofun)] at unset
      cases unset
    refine lawful_ite (lawful_stepTime _ _ (lawful_setTime here ⟨id, fun k => ?_⟩) stands) here
    exact ⟨k.1, fun some => absurd rfl some, nofun⟩

theorem dayCountWrap_lawful (s : State) : Result.Lawful s (execDayCountWrap s) := by
  refine State.running_lawful fun free => ?_
  have here := State.Lawful.refl free
  exact lawful_ite (acts_keeps (lawful_setTime here ⟨id, id⟩)
    fun e b => keeps_dayWrap e (Body.Keeps.refl b)) here

theorem belfryAccessChange_lawful (x : Bool) (s : State) : Result.Lawful s (execBelfryAccessChange x s) := by
  refine State.running_lawful fun free => ?_
  have level := lawful_belfry x (State.Lawful.refl free)
  exact lawful_ite level (lawful_act level (takeBelfry_lawful x))

theorem accessStateEvent_lawful (x : Bool) (s : State) : Result.Lawful s (execAccessStateEvent x s) := by
  refine State.running_lawful fun free => ?_
  have level := lawful_belfry x (State.Lawful.refl free)
  exact lawful_ite level (lawful_act level (takeAccess_lawful x))

theorem sendCompletion_lawful (s : State) : Result.Lawful s (execSendCompletion s) := by
  refine State.running_lawful fun free => ?_
  have here := State.Lawful.refl free
  split
  · exact lawful_finish (lawful_orderSent _ here)
  · exact here

theorem abortedFrameEnd_lawful (s : State) : Result.Lawful s (execAbortedFrameEnd s) := by
  refine State.running_lawful fun free => ?_
  have here := State.Lawful.refl free
  split
  · exact lawful_setBody here (lineEnds_lawful _)
  · exact here

theorem pollRound_lawful (s : State) : Result.Lawful s (execPollRound s) := by
  refine State.running_lawful fun free => ?_
  have here := State.Lawful.refl free
  have begun : Body.Lawful s.body (s.body.setBus (s.body.bus.beginRound s.body.port.boards)) :=
    Body.Lawful.of rfl (Nat.le_refl _) rfl fun _ => rfl
  exact lawful_ite
    (lawful_setBody here (begun.trans (keeps_chooseFrame _ (Body.Keeps.refl _)).lawful)) here

theorem pollWindowEnd_lawful (received : List BusChar) (s : State) :
    Result.Lawful s (execPollWindowEnd received s) := by
  refine State.running_lawful fun free => ?_
  have here := State.Lawful.refl free
  split
  · exact lawful_setBody (lawful_finish (lawful_judgeWindow _ received here)) (lineEnds_lawful _)
  · exact here

theorem busNoiseByte_lawful (s : State) : Result.Lawful s (execBusNoiseByte s) :=
  State.running_lawful fun free =>
    lawful_setBody (State.Lawful.refl free) (Body.Lawful.of rfl (Nat.le_refl _) rfl fun _ => rfl)

theorem expiry_lawful (i : Nat) (s : State) : Result.Lawful s (execExpiry i s) :=
  State.running_lawful fun free =>
    lawful_ite (lawful_finish (lawful_presume i (State.Lawful.refl free))) (State.Lawful.refl free)

theorem maskEnd_lawful (i : Nat) (s : State) : Result.Lawful s (execMaskEnd i s) :=
  State.running_lawful fun free =>
    lawful_ite (lawful_finish (lawful_maskEnds i (State.Lawful.refl free))) (State.Lawful.refl free)

theorem strikeDue_lawful (i : Nat) (s : State) : Result.Lawful s (execStrikeDue i s) :=
  State.running_lawful fun free =>
    lawful_ite (lawful_act (State.Lawful.refl free) (becomeDue_lawful _ i)) (State.Lawful.refl free)

theorem consoleLinkByte_lawful (x : Byte) (s : State) : Result.Lawful s (execConsoleLinkByte x s) :=
  State.running_lawful fun free => lawful_act (State.Lawful.refl free) (linkByte_lawful _ x)

theorem linkLoss_lawful (s : State) : Result.Lawful s (execLinkLoss s) :=
  State.running_lawful fun free =>
    lawful_ite (lawful_act (State.Lawful.refl free) (closeDrain_lawful _ _ _)) (State.Lawful.refl free)

theorem consoleReportSent_lawful (s : State) : Result.Lawful s (execConsoleReportSent s) := by
  refine State.running_lawful fun free => ?_
  have here := State.Lawful.refl free
  split
  · exact here
  · rename_i r _
    refine lawful_setBody here (setCon_lawful (Body.Lawful.refl _) (Nat.le_of_eq ?_))
    rw [Console.transmit_fifo, Console.reportSent_fifo]

theorem badFrameRequest_lawful (bytes : List Byte) (s : State) :
    Result.Lawful s (execBadFrameRequest bytes s) :=
  State.running_lawful fun free => lawful_ite (State.Lawful.refl free)
    (lawful_respond _ (lawful_setPort _ (lawful_setPort _ (State.Lawful.refl free))))

theorem unknownCommand_lawful (x : Byte) (payload : List Byte) (s : State) :
    Result.Lawful s (execUnknownCommand x payload s) :=
  State.running_lawful fun free => lawful_ite (State.Lawful.refl free)
    (lawful_respond _ (lawful_arrive _ (State.Lawful.refl free)))

/-! ### The resets and the load -/

theorem powerOn_holds (boards : BitVec 3) (load belfry : Bool) (l : Law) :
    l.Holds (State.powerOn boards load belfry) := by
  cases l with
  | memory => rfl
  | runTime => exact Nat.zero_le _
  | tower => exact ⟨iff_of_true rfl rfl, fun load => absurd rfl load, nofun⟩
  | available =>
    intro r hr
    obtain ⟨n, _, rfl⟩ := List.mem_map.mp hr
    simp [Bell.default, Bell.mayBeStruck]
  | flights =>
    intro r hr
    obtain ⟨n, _, rfl⟩ := List.mem_map.mp hr
    have seed : ∀ v, 80 ≤ v ∧ v ≤ 2400 → (BandRing.seed v).Within 80 2400 :=
      fun v h => BandRing.within_seed h
    exact ⟨by simp [Bell.default], seed 800 (by omega), seed 400 (by omega)⟩
  | body l =>
    refine ⟨?_, fun _ _ => rfl⟩
    cases l with
    | accounts => rfl
    | ordered => exact List.Pairwise.nil
    | queueFits => exact ⟨Nat.zero_le _, Nat.zero_le _, fun _ _ _ => Nat.zero_le _⟩
    | fifoFits => exact Nat.zero_le _
    | oneOrderEach => exact List.nodup_nil
    | ordersInTurn => exact List.Pairwise.nil
    | serves => exact ⟨fun _ => rfl, fun _ _ hl => by cases hl⟩
    | oneWriting =>
      intro i hi _ _ writing _
      have empty : (State.powerOn boards load belfry).body.slot i = Slot.emptySlot := by
        show (List.replicate 64 Slot.emptySlot).getD i Slot.emptySlot = _
        rw [List.getD_eq_getElem _ _ (by simpa using hi), List.getElem_replicate]
      rw [empty] at writing
      cases writing

theorem powerOnReset_lawful (boards : BitVec 3) (load belfry : Bool) (s : State) :
    Result.Lawful s (execPowerOnReset boards load belfry s) := by
  refine ⟨_, rfl, rfl, fun l _ => ?_⟩
  have fresh := powerOn_holds boards load belfry l
  cases l with
  | body l => cases l <;> exact fresh
  | _ => exact fresh

/-- A law is kept when RST changes alone and the hold finds no order. -/
theorem setRst_keepsLaws (x : ResetLine) (h : x.held = true → s.body.bus.sendList = []) :
    State.KeepsLaws s { s with rst := x } := by
  intro l hl
  cases l with
  | body l => exact ⟨hl.1, fun _ => h⟩
  | _ => exact hl

theorem rstAsserted_lawful (s : State) : Result.Lawful s (execRstAsserted s) := by
  refine ⟨_, rfl, ?_, ?_⟩
  · split
    · rfl
    · split <;> rfl
  · split
    · exact State.KeepsLaws.refl s
    · split
      · exact setRst_keepsLaws _ nofun
      · exact s.warm_keepsLaws.trans (setRst_keepsLaws _ fun _ => rfl)

theorem belfry_keepsLaws (x : Bool) (s : State) : State.KeepsLaws s { s with belfry := x } :=
  fun l hl => by cases l <;> exact hl

theorem rstReleased_lawful (x : Bool) (s : State) : Result.Lawful s (execRstReleased x s) := by
  have level := belfry_keepsLaws x s
  refine ⟨_, rfl, ?_⟩
  split
  · exact ⟨rfl, State.KeepsLaws.refl s⟩
  · split
    · rename_i held
      obtain ⟨laws, pending⟩ := leaveReset_keepsLaws (s := { s with belfry := x }) .line
        fun serves => LineServesOrders.noOrders serves.1 (serves.2 rfl held)
      exact ⟨pending, level.trans laws⟩
    · rename_i free
      exact ⟨rfl, level.trans (setRst_keepsLaws (s := { s with belfry := x }) _ fun held =>
        absurd held free)⟩

theorem lawful_headerRead (read : Option (List Byte)) (free : s.rst.held = false) :
    State.KeepsLaws s (s.headerRead read) ∧ (s.headerRead read).pending = s.pending := by
  have here := State.Lawful.refl free
  unfold State.headerRead
  dsimp only
  split
  · split
    · have good := lawful_setPort { s.body.port with
        header := .good, directory := readDirectory ‹List Byte›, nextSection := 0 } here
      exact ⟨good.laws, good.pending⟩
    · exact loadEnd_keepsLaws (lawful_raise _ (lawful_setPort _ here))
  · exact loadEnd_keepsLaws (lawful_raise _ (lawful_setPort _ here))

/-- What an event comes to where the part is not held. -/
theorem running_keepsLaws {f : State → State}
    (h : s.rst.held = false → State.KeepsLaws s (f s) ∧ (f s).pending = s.pending) :
    Result.Lawful s (s.running f) := by
  cases held : s.rst.held with
  | true => exact ⟨s, State.running_held held f, rfl, State.KeepsLaws.refl s⟩
  | false => exact ⟨f s, State.running_free held f, (h held).2, (h held).1⟩

theorem configHeaderRead_lawful (read : Option (List Byte)) (s : State) :
    Result.Lawful s (execConfigHeaderRead read s) := by
  refine running_keepsLaws fun free => ?_
  split
  · exact lawful_headerRead read free
  · exact ⟨State.KeepsLaws.refl s, rfl⟩

theorem configSectionRead_lawful (read : Option (List Byte)) (s : State) :
    Result.Lawful s (execConfigSectionRead read s) := by
  refine running_keepsLaws fun free => ?_
  split
  · exact ⟨State.KeepsLaws.refl s, rfl⟩
  · rename_i k _
    have applied := lawful_finish (lawful_sectionRead k read (State.Lawful.refl free))
    dsimp only
    split
    · exact loadEnd_keepsLaws applied
    · exact ⟨applied.laws, applied.pending⟩

end Sys2Proof.Machine
end

section
/-! SUPPORT. Every command and every step keeps every law; the invariants of the part are read off (O3, O5 to O15),
and what a step takes (O1). -/

namespace Sys2Proof.Machine

set_option Elab.async false

theorem setCalendar_lawful (p : List Byte) (s : State) : Result.Lawful s (execSetCalendar p s) := by
  refine State.request_lawful fun u x h _ => lawful_finish (lawful_setBody h ?_)
  have set : Body.Lawful u.body { u.body with cal := { u.body.cal with
      preRoll := x.1, catchUp := x.2.1, margin := x.2.2 } } :=
    Body.Lawful.of rfl (Nat.le_refl _) rfl fun _ => rfl
  exact set.trans (keeps_recomputeAll u.env (Body.Keeps.refl _)).lawful

/-- Every command answers a next state, leaves the queue of commands alone and keeps every law. -/
theorem exec_lawful (c : Instr) (s : State) : Result.Lawful s (exec c s) := by
  unfold exec
  cases c with
  -- resets and the load
  | powerOnReset boards load belfry => exact powerOnReset_lawful boards load belfry s
  | rstAsserted => exact rstAsserted_lawful s
  | rstReleased belfry => exact rstReleased_lawful belfry s
  | configHeaderRead read => exact configHeaderRead_lawful read s
  | configSectionRead read => exact configSectionRead_lawful read s
  | restart p => exact State.request_lawful fun _ _ h _ => restart_lawful h
  -- the Time Base
  | telegram bytes => exact running_setTime fun t => t.judgeTelegram_lawful bytes
  | telegramByteReceived x => exact running_setTime fun t => t.telegramByte_lawful x
  | telegramByteTimeout => exact running_setTime_ite fun _ => ⟨id, id⟩
  | mark => exact mark_lawful s
  | holdoverDeadline => exact holdoverDeadline_lawful s
  | slewIntervalEnd => exact running_setTime_ite TimeBase.slewEnd_lawful
  | pendingLoadWholeSecond => exact pendingLoadWholeSecond_lawful s
  | dayCountWrap => exact dayCountWrap_lawful s
  | setTime p => exact State.request_lawful fun _ w h _ => lawful_ownSetTime w h
  | snapshot p => exact State.request_lawful fun _ _ h _ => lawful_ownSnapshot h
  | readSnapshot p => exact State.request_lawful fun _ _ h _ => lawful_ownReadSnapshot h
  -- bells
  | setBell p => exact State.request_lawful fun _ x h parsed => lawful_ownSetBell x (parseSetBell_sound parsed) h
  | lockBell p => exact State.request_lawful fun _ _ h _ => lawful_finish (lawful_writeBell h id)
  | unlockBell p => exact State.request_lawful fun _ _ h _ => lawful_finish (lawful_writeBell h id)
  | restoreBell p => exact State.request_lawful fun _ n h _ => lawful_ownRestore n h
  | expiry i => exact expiry_lawful i s
  | maskEnd i => exact maskEnd_lawful i s
  | settleEnd i => exact running_acts fun e b => keeps_enterIdle i (Body.Keeps.refl b)
  -- the queue
  | strikeDue i => exact strikeDue_lawful i s
  | lateDiscard i => exact running_acts fun e b => keeps_removeAt i .late (Body.Keeps.refl b)
  | testStrike p => exact State.request_lawful fun _ x h _ => lawful_ownTestStrike x h
  | setQueue p => exact State.request_lawful fun _ x h _ => lawful_ownSetQueue x h
  | accessStateEvent x => exact accessStateEvent_lawful x s
  -- the bus
  | belfryAccessChange x => exact belfryAccessChange_lawful x s
  | sendCompletion => exact sendCompletion_lawful s
  | abortedFrameEnd => exact abortedFrameEnd_lawful s
  | pollRound => exact pollRound_lawful s
  | pollWindowEnd received => exact pollWindowEnd_lawful received s
  | busNoiseByte => exact busNoiseByte_lawful s
  | setBus p =>
    exact State.request_lawful fun _ _ h _ =>
      lawful_setBody h (Body.Lawful.of rfl (Nat.le_refl _) rfl fun _ => rfl)
  -- players
  | claimDeadline p =>
    exact running_acts fun e b => keeps_enterFree e.now p _ (keeps_abandonClaim p (Body.Keeps.refl b))
  | playerWake p => exact running_acts fun e b => keeps_takeDecision e p (Body.Keeps.refl b)
  | playNow p => exact State.request_lawful fun _ x h _ => lawful_ownPlayNow x h
  | stopPlayerStop p => exact State.request_lawful fun _ x h _ => lawful_ownStopPlayer x h
  | stopPlayerFinish p => exact State.request_lawful fun _ x h _ => lawful_ownStopPlayer x h
  -- tunes and maps
  | openTune p => exact State.request_lawful fun _ o h _ => lawful_ownOpenTune o h
  | writeTune p => exact State.request_lawful fun _ x h _ => lawful_ownWriteTune x h
  | closeTune p => exact State.request_lawful fun _ x h _ => lawful_ownCloseTune x h
  | eraseTune p => exact State.request_lawful fun _ n h _ => lawful_ownEraseTune n h
  | writeMap p => exact State.request_lawful fun _ x h _ => lawful_ownWriteMap x h
  -- the Calendar
  | launchInstant n => exact running_acts fun e b => keeps_takeNext e n (Body.Keeps.refl b)
  | writeEntry p =>
    exact State.request_lawful fun _ x h _ =>
      owner_acts h fun e b => keeps_recompute e x.1 (keeps_setEntry _ _ (Body.Keeps.refl b))
  | enableEntry p =>
    exact State.request_lawful fun _ n h _ =>
      owner_acts h fun e b => keeps_recompute e n (keeps_setEntry _ _ (Body.Keeps.refl b))
  | disableEntry p =>
    exact State.request_lawful fun _ _ h _ => lawful_keeps h (keeps_setEntry _ _ (Body.Keeps.refl _))
  | clearEntry p => exact State.request_lawful fun _ n h _ => lawful_ownClearEntry n h
  | setCalendar p => exact setCalendar_lawful p s
  -- the console
  | consoleOpen => exact running_frame _
  | consoleKey pitch force => exact running_frame _
  | consoleClose => exact running_frame _
  | alive => exact running_frame_quiet _
  | malformedConsoleFrame => exact running_frame_quiet _
  | consoleLinkByte x => exact consoleLinkByte_lawful x s
  | player0Key => exact running_acts fun e b => keeps_takeKey e (Body.Keeps.refl b)
  | linkLoss => exact linkLoss_lawful s
  | consoleReportSent => exact consoleReportSent_lawful s
  | setConsole p => exact State.request_lawful fun _ c h _ => lawful_ownSetConsole c h
  | endConsoleEnd p => exact State.request_lawful fun _ x h _ => lawful_ownEndConsole x h
  | endConsoleCut p => exact State.request_lawful fun _ x h _ => lawful_ownEndConsole x h
  -- the port
  | readTransaction n => exact State.running_lawful fun free => lawful_setPort _ (State.Lawful.refl free)
  | badFrameRequest bytes => exact badFrameRequest_lawful bytes s
  | unknownCommand x p => exact unknownCommand_lawful x p s
  | clearNotices p => exact State.request_lawful fun _ _ h _ => lawful_setPort _ h
  | setNoticeMask p => exact State.request_lawful fun _ _ h _ => lawful_setPort _ h
  -- the reads
  | readClock p => exact State.request_reads fun _ _ => rfl
  | readBell p => exact State.request_reads fun _ _ => rfl
  | readQueue p => exact State.request_reads fun _ _ => rfl
  | readPlayer p => exact State.request_reads fun _ _ => rfl
  | readTuneInfo p => exact State.request_reads fun _ _ => rfl
  | readStore p => exact State.request_reads fun _ _ => rfl
  | readMap p => exact State.request_reads fun _ _ => rfl
  | readEntry p => exact State.request_reads fun _ _ => rfl
  | readConsole p => exact State.request_reads fun _ _ => rfl
  | readBus p => exact State.request_reads fun _ _ => rfl
  | readNotices p => exact State.request_reads fun _ _ => rfl
  | identify p => exact State.request_reads fun _ _ => rfl

/-! ### Steps -/

/-- Time that passes keeps the laws, in and out of the hold. -/
theorem setTime_keepsLaws {s : State} {x : TimeBase} (h : TimeBase.Lawful s.time x) :
    State.KeepsLaws s (s.setTime x) := by
  intro l hl
  cases l with
  | runTime => exact h.range hl
  | tower => exact h.clock hl
  | _ => exact hl

/-- The queue of commands and the count of draws are in no law. -/
theorem pending_keepsLaws (s : State) (l : List Instr) (d : Nat) :
    State.KeepsLaws s { s with pending := l, body := { s.body with draws := d } } := by
  intro law hl
  cases law with
  | body law => cases law <;> exact hl
  | _ => exact hl

theorem idle_keepsLaws (s : State) : State.KeepsLaws s s.idle := by
  unfold State.idle
  split
  · exact setTime_keepsLaws s.time.heldTick_lawful
  · split
    · exact setTime_keepsLaws s.time.tick_lawful
    · exact pending_keepsLaws s _ _
    · exact pending_keepsLaws s _ _

theorem step_keepsLaws {s t : State} (h : step s = .next t) : State.KeepsLaws s t := by
  unfold step at h
  split at h
  · cases h
    exact idle_keepsLaws s
  · rename_i c rest _
    obtain ⟨u, next, _, laws⟩ := exec_lawful c { s with pending := rest }
    rw [next] at h
    cases h
    exact (pending_keepsLaws s rest s.body.draws).trans laws

/-- A law of the blocks, other than that of the line, is kept by every step. -/
theorem step_keepsBody {l : BodyLaw} (other : l ≠ .serves) {s t : State} (hs : l.Holds s.body)
    (h : step s = .next t) : l.Holds t.body :=
  (Law.holds_body other).mp (step_keepsLaws h (.body l) ((Law.holds_body other).mpr hs))

/-! ### The invariants -/

/-- Settles O5: the note records are written by WRITE-TUNE and by the load alone. -/
theorem stepKeepsMemoryCanonical : Obligations.StepKeepsMemoryCanonical :=
  fun _ _ hs h => step_keepsLaws h .memory hs

/-- Settles O6: an eighth that passes stops at the end of the range. -/
theorem stepKeepsRunTimeInRange : Obligations.StepKeepsRunTimeInRange :=
  fun _ _ hs h => step_keepsLaws h .runTime hs

/-- Settles O7, by what each change of the Time Base does to the clock state and to a pending load. -/
theorem stepKeepsTowerWithClock : Obligations.StepKeepsTowerWithClock :=
  fun _ _ hs h => step_keepsLaws h .tower hs

/-- Settles O8: a strike enters by an insertion and leaves by one way, each counted. -/
theorem stepKeepsQueueAccount : Obligations.StepKeepsQueueAccount :=
  fun _ _ hs h => step_keepsBody (l := .accounts) nofun hs h

/-- Settles O9: insertion is in order of fire instant, and no fire instant changes in the queue. -/
theorem stepKeepsQueueOrdered : Obligations.StepKeepsQueueOrdered :=
  fun _ _ hs h => step_keepsBody (l := .ordered) nofun hs h

/-- Settles O10: a strike is inserted where there is room, quotas below a queued count are refused, and an event
enters the FIFO where there is room. -/
theorem stepKeepsBuffersWithinBounds : Obligations.StepKeepsBuffersWithinBounds :=
  ⟨fun _ _ hs h => step_keepsBody (l := .queueFits) nofun hs h,
    fun _ _ hs h => step_keepsBody (l := .fifoFits) nofun hs h⟩

/-- Settles O11: an order is taken for a bell that has none, at its place, and cancelled where Belfry Access is
asserted; the list and the line then give the last clause. -/
theorem stepKeepsSendListLawful : Obligations.StepKeepsSendListLawful := by
  refine ⟨?oneEach, ?inTurn, ?serves, fun s hs access => ?silent⟩
  case oneEach => exact fun _ _ hs h => step_keepsBody (l := .oneOrderEach) nofun hs h
  case inTurn => exact fun _ _ hs h => step_keepsBody (l := .ordersInTurn) nofun hs h
  case serves =>
    exact fun _ _ hs h =>
      Law.holds_serves.mp (step_keepsLaws h (.body .serves) (Law.holds_serves.mpr hs))
  case silent => exact LineServesOrders.noOrders hs.1 (hs.1.1 access)

/-- Settles O12: a bell record is written with its availability computed, and a warm reset takes both away. -/
theorem stepKeepsAvailabilityDerived : Obligations.StepKeepsAvailabilityDerived :=
  fun _ _ hs h => step_keepsLaws h .available hs

/-! ### Estimates -/

theorem BandRing.Within.getD {x : BandRing} {floor ceiling : Nat} (h : x.Within floor ceiling) (i : Nat) :
    floor ≤ x.values.getD (i % 8) 0 ∧ x.values.getD (i % 8) 0 ≤ ceiling := by
  obtain ⟨length, _, within⟩ := h
  have inside : i % 8 < x.values.length := by omega
  rw [List.getD_eq_getElem _ _ inside]
  exact within _ (List.getElem_mem inside)

/-- R21: the mean of values within the bounds lies within them. -/
theorem BandRing.Within.mean {x : BandRing} {floor ceiling depth : Nat} (h : x.Within floor ceiling)
    (positive : 0 < depth) : floor ≤ x.mean depth ∧ x.mean depth ≤ ceiling := by
  have low := List.card_nsmul_le_sum ((List.range depth).map fun i => x.values.getD ((x.position + 7 - i) % 8) 0)
    floor (by simpa using fun i _ => (h.getD _).1)
  have high := List.sum_le_card_nsmul ((List.range depth).map fun i => x.values.getD ((x.position + 7 - i) % 8) 0)
    ceiling (by simpa using fun i _ => (h.getD _).2)
  simp only [List.length_map, List.length_range, smul_eq_mul] at low high
  exact ⟨(Nat.le_div_iff_mul_le positive).mpr (by rwa [Nat.mul_comm]), Nat.div_le_of_le_mul high⟩

theorem Bell.FlightSound.estimate {r : Bell} (h : r.FlightSound) (band : Band) :
    r.floor ≤ r.estimate band ∧ r.estimate band ≤ r.ceiling := by
  obtain ⟨depth, soft, loud⟩ := h
  have positive : 0 < r.depth := by
    rcases (by simpa using depth : r.depth = 1 ∨ r.depth = 2 ∨ r.depth = 4 ∨ r.depth = 8) with
      d | d | d | d <;> omega
  cases band with
  | soft => exact soft.mean positive
  | loud => exact loud.mean positive

/-- Settles O13: a value enters a ring within the bounds alone, and a mean lies between them. -/
theorem stepKeepsFlightEstimatesWithinBounds : Obligations.StepKeepsFlightEstimatesWithinBounds :=
  ⟨fun _ _ hs h => step_keepsLaws h .flights hs, fun _ band h => h.estimate band⟩

/-- Settles O14: OPEN-TUNE alone makes a slot WRITING, and abandons the other one. -/
theorem stepKeepsOneSlotWriting : Obligations.StepKeepsOneSlotWriting :=
  fun _ _ hs h => step_keepsBody (l := .oneWriting) nofun hs h

/-- Settles O15: the laws hold of every part at the release of POR. -/
theorem resetMeetsInvariants : Obligations.ResetMeetsInvariants := by
  have law : ∀ l : Law, l.Holds State.reset := powerOn_holds 0 false false
  have blocks : ∀ l : BodyLaw, l.Holds State.reset.body := fun l => (law (.body l)).1
  exact ⟨law .memory, law .runTime, law .tower, blocks .accounts, blocks .ordered, blocks .queueFits,
    blocks .fifoFits, blocks .oneOrderEach, blocks .ordersInTurn, Law.holds_serves.mp (law (.body .serves)),
    law .available, law .flights, blocks .oneWriting⟩

/-! ### Commands -/

/-- Settles O1. -/
theorem stepTakesFrontCommand : Obligations.StepTakesFrontCommand := fun _ _ => rfl

/-- Settles O3, by what every command may come to. -/
theorem everyCommandGoesOn : Obligations.EveryCommandGoesOn := fun c s =>
  let ⟨t, next, pending, _⟩ := exec_lawful c s
  ⟨t, next, pending⟩

end Sys2Proof.Machine
end

section
/-! SUPPORT. The Time Base's events and SET-TIME (R1 to R13, R154, R206): what each of its operations does, and from
this what the part does on an empty queue in the hold (O4) and at each event (O22 to O30). -/

namespace Sys2Proof.Machine

set_option Elab.async false

/-! ### Operations of the Time Base -/

section Operations

variable {t : TimeBase}

theorem TowerTime.secondChanges_eq (v w : TowerTime) :
    v.secondChanges w = decide (v.ms / 1000 ≠ w.ms / 1000) := by
  simp [TowerTime.secondChanges, bne, BEq.beq]

/-- R2, R13, R154. -/
theorem TimeBase.addMs_eq (t : TimeBase) :
    t.addMs = match t.tower with
      | none => t
      | some w => t.msPassed w := by
  unfold TimeBase.addMs
  simp only [TowerTime.secondChanges_eq]
  rfl

theorem TimeBase.towerTick_eq (t : TimeBase) :
    t.towerTick = match t.tower with
      | none => t
      | some w =>
        if t.phase < 7 then { t with phase := t.phase + 1 }
        else if t.withhold then { t with phase := 0, withhold := false }
        else TimeBase.msPassed { t with phase := 0 } w := by
  cases t with
  | mk _ _ tower =>
    cases tower with
    | none => rfl
    | some w =>
      unfold TimeBase.towerTick
      simp only [TimeBase.addMs_eq]

theorem TimeBase.judgeTelegram_good {bytes : List Byte} {w : TowerTime} (h : readTelegram bytes = some w) :
    t.judgeTelegram bytes = { t with
      telegrams := t.telegrams + 1, held := some { time := w, arrival := t.runTime }, rx := [] } := by
  simp [TimeBase.judgeTelegram, h]

theorem TimeBase.judgeTelegram_bad {bytes : List Byte} (h : readTelegram bytes = none) :
    t.judgeTelegram bytes = t.badTelegramTaken := by
  simp [TimeBase.judgeTelegram, h]

/-- R206: with no telegram begun, 165 begins one. -/
theorem TimeBase.telegramByte_begins (h : t.rx = []) :
    t.telegramByte 165 = { t with rx := [165], rxLast := t.runTime } := by
  simp [TimeBase.telegramByte, h]

theorem TimeBase.telegramByte_idle (h : t.rx = []) : t.telegramByte 255 = t := by
  simp [TimeBase.telegramByte, h]

theorem TimeBase.telegramByte_stray {x : Byte} (h : t.rx = []) (begins : x ≠ 165) (idle : x ≠ 255) :
    t.telegramByte x = t.badTelegramTaken := by
  unfold TimeBase.telegramByte
  rw [h]
  dsimp only
  rw [if_neg begins, if_neg idle]

/-- R206: a byte joins the begun telegram, which is judged with its ninth. -/
theorem TimeBase.telegramByte_joins {x : Byte} (h : t.rx ≠ []) :
    t.telegramByte x = if t.rx.length = 8 then t.judgeTelegram (t.rx ++ [x])
      else { t with rx := t.rx ++ [x], rxLast := t.runTime } := by
  unfold TimeBase.telegramByte
  cases rx : t.rx with
  | nil => exact absurd rx h
  | cons y rest => simp

theorem TimeBase.slewBy_eq (offset : Int) :
    t.slewBy offset = if offset.natAbs ≤ 2 then { t with slew := 0 }
      else { t with slew := offset, slewStart := if t.slew = 0 then t.runTime else t.slewStart } := rfl

theorem TimeBase.slewEnd_forward (h : 0 < t.slew) :
    t.slewEnd = ({ t with slew := t.slew - 1, slewStart := t.slewStart + 512 } : TimeBase).addMs := by
  simp [TimeBase.slewEnd, h]

theorem TimeBase.slewEnd_back (h : t.slew < 0) :
    t.slewEnd = { t with slew := t.slew + 1, slewStart := t.slewStart + 512, withhold := true } := by
  simp [TimeBase.slewEnd, Int.not_lt.mpr (Int.le_of_lt h)]

end Operations

/-- Settles O22, by the conjuncts of the check. -/
theorem telegramCheckIsExact : Obligations.TelegramCheckIsExact := by
  intro bytes w
  simp only [readTelegram, check, Option.ite_none_right_eq_some, Bool.and_eq_true, beq_iff_eq,
    decide_eq_true_eq, Option.some.injEq]
  constructor
  · rintro ⟨⟨⟨⟨⟨length, start⟩, sum⟩, hour, minute, second, weekday⟩, fix⟩, rfl⟩
    exact ⟨length, start, sum, hour, minute, second, weekday, fix, rfl⟩
  · rintro ⟨length, start, sum, hour, minute, second, weekday, fix, rfl⟩
    exact ⟨⟨⟨⟨⟨length, start⟩, sum⟩, hour, minute, second, weekday⟩, fix⟩, rfl⟩

/-! ### The hold of RST -/

/-- R199: only the resets are taken in the hold. -/
theorem exec_held {c : Instr} {s : State} (held : s.rst.held = true) (h : c.isReset = false) :
    exec c s = .next s := by
  have stays (t : State) : (.next (if s.rst.held then s else t) : Result) = .next s :=
    congrArg _ (if_pos held)
  unfold exec
  cases c with
  | powerOnReset _ _ _ => cases h
  | rstAsserted => cases h
  | rstReleased _ => cases h
  | _ => exact stays _

/-- R199: in the hold no millisecond is withheld; the flag waits. -/
theorem TimeBase.heldTick_eq (t : TimeBase) :
    t.heldTick = match t.tower with
      | none => t
      | some w =>
        if t.phase < 7 then { t with phase := t.phase + 1 }
        else TimeBase.msPassed { t with phase := 0 } w := by
  unfold TimeBase.heldTick
  rw [TimeBase.towerTick_eq]
  cases t with
  | mk _ _ tower =>
    cases tower with
    | none => rfl
    | some w =>
      simp only [Bool.false_eq_true, if_false]
      split <;> rfl

/-- Settles O4, by the hold's lemmas for events and for the empty queue. -/
theorem heldPartTakesNoEvent : Obligations.HeldPartTakesNoEvent := by
  intro s held
  refine ⟨fun c h => exec_held held h, fun empty => ?_⟩
  have idle : s.idle = s.setTime s.time.heldTick := if_pos held
  have next : step s = .next s.idle := by simp [step, empty]
  rw [next, idle, TimeBase.heldTick_eq]
  rfl

/-! ### Telegrams -/

section Events

variable {s : State}

theorem exec_telegram (free : s.rst.held = false) (bytes : List Byte) :
    exec (.telegram bytes) s = .next (s.setTime (s.time.judgeTelegram bytes)) := by
  unfold exec
  exact State.running_free free _

theorem exec_telegramByteReceived (free : s.rst.held = false) (x : Byte) :
    exec (.telegramByteReceived x) s = .next (s.setTime (s.time.telegramByte x)) := by
  unfold exec
  exact State.running_free free _

theorem exec_telegramByteTimeout (free : s.rst.held = false) (begun : s.time.rx ≠ [])
    (silent : s.time.rxLast + 161 ≤ s.time.runTime) :
    exec .telegramByteTimeout s = .next (s.setTime s.time.badTelegramTaken) := by
  have due : s.telegramDue = true := by simp [State.telegramDue, begun, State.now, silent]
  unfold exec
  exact (State.running_free free _).trans (by rw [if_pos due])

/-- Settles O23, by what each byte does to a begun telegram. -/
theorem telegramsAreHeldOrCountedBad : Obligations.TelegramsAreHeldOrCountedBad := by
  intro s free bad
  refine ⟨?good, ?bad, fun none => ⟨?begins, ?idle, ?stray⟩, ?joins, ?ninth, ?timeout⟩
  case good =>
    intro bytes w h
    rw [exec_telegram free, TimeBase.judgeTelegram_good h]
    rfl
  case bad =>
    intro bytes h
    rw [exec_telegram free, TimeBase.judgeTelegram_bad h]
    rfl
  case begins =>
    rw [exec_telegramByteReceived free, TimeBase.telegramByte_begins none]
    rfl
  case idle =>
    rw [exec_telegramByteReceived free, TimeBase.telegramByte_idle none]
    rfl
  case stray =>
    intro x begins idle
    rw [exec_telegramByteReceived free, TimeBase.telegramByte_stray none begins idle]
    rfl
  case joins =>
    intro x begun short
    rw [exec_telegramByteReceived free, TimeBase.telegramByte_joins begun, if_neg (Nat.ne_of_lt short)]
    rfl
  case ninth =>
    intro x length
    have begun : s.time.rx ≠ [] := fun none => by simp [none] at length
    rw [exec_telegramByteReceived free, exec_telegram free, TimeBase.telegramByte_joins begun,
      if_pos length]
  case timeout => exact fun begun silent => exec_telegramByteTimeout free begun silent

/-! ### Marks -/

theorem exec_mark_none (free : s.rst.held = false) (none : s.time.held = none) :
    exec .mark s = .next (s.setTime { s.time with orphanMark := s.time.orphanMark + 1 }) := by
  unfold exec
  refine (State.running_free free _).trans ?_
  simp [none]

theorem exec_mark_stale {h : HeldTelegram} (free : s.rst.held = false) (held : s.time.held = some h)
    (stale : h.arrival + 8800 < s.time.runTime) :
    exec .mark s = .next (s.setTime { s.time with
      orphanMark := s.time.orphanMark + 1, held := none }) := by
  unfold exec
  refine (State.running_free free _).trans ?_
  simp [held, State.now, stale]

theorem exec_mark_accepted {h : HeldTelegram} (free : s.rst.held = false) (held : s.time.held = some h)
    (fresh : s.time.runTime ≤ h.arrival + 8800) : exec .mark s = .next (s.acceptMark h.time) := by
  unfold exec
  refine (State.running_free free _).trans ?_
  simp [held, State.now, Nat.not_lt.mpr fresh]

/-- R7: what an accepted mark does goes by whether a Tower Time stands. -/
theorem State.acceptMark_of {x : Option TowerTime} (held : TowerTime) :
    s.time.tower = x → s.acceptMark held =
      let t := s.setTime { s.time with marks := s.time.marks + 1, held := none, lastMark := some s.now }
      match x with
      | none => t.startByMark held
      | some present => t.disciplineByMark present held := by
  rintro rfl
  rfl

/-- Settles O24, by the three fates of a mark. -/
theorem markIsOrphanedOrStartsTowerTime : Obligations.MarkIsOrphanedOrStartsTowerTime := by
  intro s free
  refine ⟨exec_mark_none free, fun h held stale => exec_mark_stale free held stale,
    fun h held fresh tower => ?_⟩
  rw [exec_mark_accepted free held fresh, State.acceptMark_of _ tower]
  rfl

/-- R9, R13: the state becomes LOCKED, CLOCK-STATE is raised where it was HOLDOVER, and a pending load goes. -/
def State.lockedWith (s : State) (t : TimeBase) : State :=
  if s.time.clock = .holdover then ({ s with time := t } : State).noticed .clockState
  else { s with time := t }

/-- The accepted mark is counted and the state is LOCKED. -/
theorem State.lockByMark_accepted (s : State) (offset : Int) :
    (s.setTime { s.time with
      marks := s.time.marks + 1, held := none, lastMark := some s.now }).lockByMark offset = s.lockedWith (s.time.measured offset) := by
  unfold State.lockByMark State.lockedWith TimeBase.measured
  by_cases load : s.time.pendingLoad.isSome = true
  · simp only [State.setTime_time, load, if_true]
    rfl
  · have none : s.time.pendingLoad = none := by simpa using load
    simp only [State.setTime_time, none]
    rfl

theorem State.lockedWith_time (s : State) (t : TimeBase) : (s.lockedWith t).time = t := by
  unfold State.lockedWith
  split <;> rfl

theorem State.lockedWith_setTime (s : State) (t u : TimeBase) :
    (s.lockedWith t).setTime u = s.lockedWith u := by
  unfold State.lockedWith
  split <;> rfl

/-- R9 to R11. -/
theorem State.acceptMark_set {v held : TowerTime} (tower : s.time.tower = some v) :
    s.acceptMark held =
      if 1000 < (held.offset v).natAbs then
        (s.lockedWith (s.time.measured (held.offset v))).stepTime held .mark
      else (s.lockedWith ((s.time.measured (held.offset v)).slewBy (held.offset v))).replaceWeekday v held := by
  rw [State.acceptMark_of held tower]
  simp only [State.disciplineByMark, State.lockByMark_accepted, State.lockedWith_time,
    State.lockedWith_setTime]

theorem State.stepTime_same {w v : TowerTime} (source : StepSource) (tower : s.time.tower = some v)
    (h : w.offset v = 0) : s.stepTime w source = s.setTime (s.time.stepped w 0 source) := by
  simp only [State.stepTime, tower, h, if_pos]
  rfl

theorem State.stepTime_moves {w v : TowerTime} (source : StepSource) (tower : s.time.tower = some v)
    (h : w.offset v ≠ 0) :
    s.stepTime w source = ((s.setTime (s.time.stepped w (w.offset v) source)).noticed .clockStep).act
      fun e b => b.timeChange e (some v) w := by
  simp only [State.stepTime, tower, if_neg h, TimeBase.stepped]
  rfl

/-- Settles O25, by the size of the offset that the mark measures. -/
theorem markDisciplinesTowerTime : Obligations.MarkDisciplinesTowerTime := by
  intro s h v free held fresh tower offset t locked slewed
  have measures : h.time.offset v = offset := rfl
  rw [exec_mark_accepted free held fresh, State.acceptMark_set tower, measures]
  have slews : (s.time.measured offset).slewBy offset = slewed := TimeBase.slewBy_eq offset
  refine ⟨fun small keeps => ?_, fun small day weekday => ?_, fun large => ?_⟩
  · rw [if_neg (Nat.not_lt.mpr small)]
    exact congrArg _ ((if_neg keeps).trans (congrArg s.lockedWith slews))
  · rw [if_neg (Nat.not_lt.mpr small)]
    refine congrArg _ ((if_pos ⟨day, weekday⟩).trans ?_)
    rw [State.lockedWith_setTime, State.lockedWith_time]
    exact congrArg (fun x : TimeBase =>
      (s.lockedWith { x with tower := some { v with weekday := h.time.weekday } }).act
        fun e b => b.recomputeAll e) slews
  · rw [if_pos large]
    have nonzero : offset ≠ 0 := fun zero => by simp [zero] at large
    have stands : (s.lockedWith t).time.tower = some v := by rw [State.lockedWith_time]; exact tower
    rw [State.stepTime_moves .mark stands nonzero, State.lockedWith_time, State.lockedWith_setTime]
    rfl

/-! ### Deadlines and intervals -/

/-- Settles O26: the deadline is present in LOCKED alone. -/
theorem holdoverDeadlineLeavesLocked : Obligations.HoldoverDeadlineLeavesLocked := by
  intro s free
  refine ⟨fun m clock last due => ?_, fun other => ?_⟩
  · have reached : s.holdoverDue = true := by
      simp [State.holdoverDue, TimeBase.holdoverDeadline, clock, last, State.isReached, State.now, due]
    unfold exec
    refine (State.running_free free _).trans ?_
    rw [if_pos reached]
    rfl
  · refine (State.running_free free _).trans ?_
    rw [if_neg fun due => other (State.holdoverDue_locked due)]

theorem exec_slewIntervalEnd (free : s.rst.held = false) (slew : s.time.slew ≠ 0)
    (reached : s.time.slewStart + 512 ≤ s.time.runTime) :
    exec .slewIntervalEnd s = .next (s.setTime s.time.slewEnd) := by
  have due : s.slewDue = true := by simp [State.slewDue, slew, State.now, reached]
  unfold exec
  exact (State.running_free free _).trans (by rw [if_pos due])

/-- Settles O27, by the sign of the correction. -/
theorem slewIntervalAppliesOneMillisecond : Obligations.SlewIntervalAppliesOneMillisecond := by
  intro s free reached
  refine ⟨fun forward => ?_, fun back => ?_⟩
  · dsimp only
    rw [exec_slewIntervalEnd free (Int.ne_of_gt forward) reached, TimeBase.slewEnd_forward forward,
      TimeBase.addMs_eq]
    rfl
  · rw [exec_slewIntervalEnd free (Int.ne_of_lt back) reached, TimeBase.slewEnd_back back]
    rfl

/-- Settles O28, by whether the load moves Tower Time. -/
theorem wholeSecondLoadsPendingTime : Obligations.WholeSecondLoadsPendingTime := by
  intro s w v free load second tower size u
  have loads : exec .pendingLoadWholeSecond s = .next ((s.setTime { s.time with
      pendingLoad := none, wholeSecond := false, loadStatus := .loaded }).stepTime w .setTime) := by
    unfold exec
    refine (State.running_free free _).trans ?_
    simp only [load, second, if_true]
  have stands : (s.setTime { s.time with
    pendingLoad := none, wholeSecond := false, loadStatus := .loaded }).time.tower = some v := tower
  rw [loads]
  refine ⟨fun zero => ?_, fun moves => ?_⟩
  · rw [State.stepTime_same .setTime stands zero]
    simp only [u, zero]
    rfl
  · rw [State.stepTime_moves .setTime stands moves]
    rfl

/-- Settles O29: the row's event is that of R154. -/
theorem dayCountWrapForgetsLastFired : Obligations.DayCountWrapForgetsLastFired := by
  intro s free wrapped
  unfold exec
  refine (State.running_free free _).trans ?_
  rw [if_pos wrapped]
  rfl

/-! ### SET-TIME -/

theorem exec_setTime (p : List Byte) (s : State) :
    exec (.setTime p) s = s.request p parseSetTime State.ownSetTime := rfl

/-- R12, by the clock state. -/
theorem State.ownSetTime_of {c : ClockState} (w : TowerTime) :
    s.time.clock = c → s.ownSetTime w = match c with
      | .locked => s.refuse .clockOwnsTime
      | .unset => (((s.setTime { s.time with
          tower := some w, phase := 0, clock := .holdover, loadStatus := .loaded }).noticed
            .clockState).act fun e b => b.timeChange e none w).done [2]
      | .holdover =>
        (s.setTime { s.time with pendingLoad := some w, loadStatus := .pendingLoad }).done [1] := by
  rintro rfl
  rfl

/-- Settles O30, by the clock state that the owner finds. -/
theorem setTimeFollowsClockState : Obligations.SetTimeFollowsClockState := by
  intro s p w heard parsed
  refine ⟨fun locked => ?_, fun holdover => ?_, fun unset => ?_⟩
  · exact State.request_refused heard parsed (State.ownSetTime_of (s := s.heard p) w locked)
  · exact State.request_writesTime heard parsed (State.ownSetTime_of (s := s.heard p) w holdover)
  · rw [exec_setTime, State.request_heard heard parsed, State.ownSetTime_of (s := s.heard p) w unset]
    rfl

end Events

end Sys2Proof.Machine
end

section
/-! SUPPORT. The step on an empty queue (O2): which events are due in which state, and how an eighth passes. -/

namespace Sys2Proof.Machine

set_option Elab.async false

variable {s : State} {c : Instr}

/-! ### Which events are due -/

theorem mem_only {p : Bool} {d : Instr} : c ∈ only p d ↔ c = d ∧ p = true := by
  unfold only
  cases p <;> simp

theorem State.isReached_iff {x : Option Nat} : s.isReached x = true ↔ ∃ t ∈ x, t ≤ s.now := by
  cases x <;> simp [State.isReached]

/-- R5. -/
theorem State.holdoverDue_iff :
    s.holdoverDue = true ↔ s.time.clock = .locked ∧ ∃ m ∈ s.time.lastMark, m + 28000 ≤ s.now := by
  unfold State.holdoverDue TimeBase.holdoverDeadline
  by_cases locked : s.time.clock = .locked <;> simp [locked, State.isReached_iff]

/-- R10. -/
theorem State.slewDue_iff :
    s.slewDue = true ↔ s.time.slew ≠ 0 ∧ s.time.slewStart + 512 ≤ s.now := by
  simp [State.slewDue]

/-- R13. -/
theorem State.wholeSecondDue_iff :
    s.wholeSecondDue = true ↔ s.time.pendingLoad ≠ none ∧ s.time.wholeSecond = true := by
  simp [State.wholeSecondDue, Option.isSome_iff_ne_none]

/-- R206. -/
theorem State.telegramDue_iff :
    s.telegramDue = true ↔ s.time.rx ≠ [] ∧ s.time.rxLast + 161 ≤ s.now := by
  simp [State.telegramDue]

/-- R42, R47, R48: the timer end of a hammer. -/
theorem mem_hammerDue (x : HammerState) (row : Nat → Instr) :
    c ∈ ((List.range 56).filter (s.hammerDue x)).map row ↔
      ∃ i < 56, ∃ t ∈ (s.hammer i).timerEnd, t ≤ s.now ∧ c = row i ∧ (s.hammer i).state = x := by
  simp only [List.mem_map, List.mem_filter, List.mem_range, State.hammerDue, Bool.and_eq_true,
    beq_iff_eq, State.isReached_iff]
  constructor
  · rintro ⟨i, ⟨bell, state, t, timer, reached⟩, rfl⟩
    exact ⟨i, bell, t, timer, reached, rfl, state⟩
  · rintro ⟨i, bell, t, timer, reached, rfl, state⟩
    exact ⟨i, ⟨bell, state, t, timer, reached⟩, rfl⟩

theorem mem_hammers :
    (c ∈ ((List.range 56).filter (s.hammerDue .drive)).map .expiry ∨
      c ∈ ((List.range 56).filter (s.hammerDue .mask)).map .maskEnd ∨
      c ∈ ((List.range 56).filter (s.hammerDue .settle)).map .settleEnd) ↔
    ∃ i < 56, ∃ x ∈ (s.hammer i).timerEnd, x ≤ s.now ∧
      ((c = .expiry i ∧ (s.hammer i).state = .drive) ∨ (c = .maskEnd i ∧ (s.hammer i).state = .mask) ∨
        (c = .settleEnd i ∧ (s.hammer i).state = .settle)) := by
  simp only [mem_hammerDue, ← exists_or, ← and_or_left]

/-- R67, R70: a strike at its place in the queue. -/
theorem mem_places (row : Nat → Instr) (p : Strike → Bool) :
    c ∈ ((List.range s.body.occupancy).filter fun i => s.body.sched.queue[i]?.any p).map row ↔
      ∃ i k, s.body.sched.queue[i]? = some k ∧ c = row i ∧ p k = true := by
  simp only [List.mem_map, List.mem_filter, List.mem_range, Option.any_eq_true]
  constructor
  · rintro ⟨i, ⟨_, k, place, holds⟩, rfl⟩
    exact ⟨i, k, place, rfl, holds⟩
  · rintro ⟨i, k, place, rfl, holds⟩
    exact ⟨i, ⟨(List.getElem?_eq_some_iff.mp place).1, k, place, holds⟩, rfl⟩

theorem mem_strikes :
    (c ∈ ((List.range s.body.occupancy).filter s.strikeDueAt).map .strikeDue ∨
      c ∈ ((List.range s.body.occupancy).filter s.lateAt).map .lateDiscard) ↔
    ∃ i k, s.body.sched.queue[i]? = some k ∧
      ((c = .strikeDue i ∧ k.state = .queued ∧ k.fire ≤ s.now) ∨
        (c = .lateDiscard i ∧ k.state = .due ∧
          s.body.sched.lateLimit < s.now - k.fire + k.admittedLate)) := by
  have due := mem_places (s := s) (c := c) .strikeDue
    fun k => k.state == .queued && decide (k.fire ≤ s.now)
  have late := mem_places (s := s) (c := c) .lateDiscard (s.body.tooLate s.now)
  simp only [Bool.and_eq_true, beq_iff_eq, decide_eq_true_eq] at due
  simp only [Body.tooLate, Bool.and_eq_true, beq_iff_eq, decide_eq_true_eq] at late
  refine (or_congr due late).trans ?_
  simp only [← exists_or, ← and_or_left]

/-- R178, R179: the eighth of an ACTUATE frame ends. -/
theorem State.frameEnded_iff {cut : Bool} :
    (s.frameEnded cut).isSome = true ↔
      ∃ bell ends, s.body.bus.line = .actuate bell ends cut ∧ ends ≤ s.now := by
  unfold State.frameEnded
  cases s.body.bus.line with
  | idle => simp
  | poll board ends => simp
  | actuate bell ends c =>
    by_cases h : c = cut ∧ ends ≤ s.now
    · obtain ⟨rfl, reached⟩ := h
      simp [reached]
    · simp only [if_neg h, Option.isSome_none, Bool.false_eq_true, Line.actuate.injEq, false_iff]
      rintro ⟨_, _, ⟨_, rfl, rfl⟩, reached⟩
      exact h ⟨rfl, reached⟩

theorem mem_frames :
    (c ∈ only (s.frameEnded false).isSome .sendCompletion ∨
      c ∈ only (s.frameEnded true).isSome .abortedFrameEnd) ↔
    ∃ bell ends cut, s.body.bus.line = .actuate bell ends cut ∧ ends ≤ s.now ∧
      c = if cut then .abortedFrameEnd else .sendCompletion := by
  simp only [mem_only, State.frameEnded_iff]
  constructor
  · rintro (⟨rfl, bell, ends, line, reached⟩ | ⟨rfl, bell, ends, line, reached⟩)
    · exact ⟨bell, ends, false, line, reached, rfl⟩
    · exact ⟨bell, ends, true, line, reached, rfl⟩
  · rintro ⟨bell, ends, cut, line, reached, rfl⟩
    cases cut with
    | false => exact Or.inl ⟨rfl, bell, ends, line, reached⟩
    | true => exact Or.inr ⟨rfl, bell, ends, line, reached⟩

/-- R183. -/
theorem State.windowEnded_iff :
    s.windowEnded.isSome = true ↔ ∃ board ends, s.body.bus.line = .poll board ends ∧ ends ≤ s.now := by
  unfold State.windowEnded
  cases s.body.bus.line with
  | idle => simp
  | actuate bell ends cut => simp
  | poll board ends =>
    by_cases h : ends ≤ s.now
    · simp [h]
    · simp only [if_neg h, Option.isSome_none, Bool.false_eq_true, Line.poll.injEq, false_iff]
      rintro ⟨_, _, ⟨_, rfl⟩, reached⟩
      exact h reached

/-- R96. -/
theorem mem_claimDue :
    c ∈ ((List.range 8).filter s.claimDue).map .claimDeadline ↔
      ∃ p < 8, c = .claimDeadline p ∧ (s.body.claim p).state = .pendingClaim ∧
        ∃ x ∈ (s.body.claim p).deadline, x ≤ s.now := by
  simp only [List.mem_map, List.mem_filter, List.mem_range, State.claimDue, Bool.and_eq_true,
    beq_iff_eq, State.isReached_iff]
  constructor
  · rintro ⟨p, ⟨player, state, reached⟩, rfl⟩
    exact ⟨p, player, rfl, state, reached⟩
  · rintro ⟨p, player, rfl, state, reached⟩
    exact ⟨p, ⟨player, state, reached⟩, rfl⟩

/-- R109. -/
theorem mem_wakeDue :
    c ∈ ((List.range 8).filter s.wakeDue).map .playerWake ↔
      ∃ p < 8, c = .playerWake p ∧ (s.body.player p).state = .playing ∧
        (s.body.player p).generation = .stalled ∧ ∃ x ∈ (s.body.player p).wake, x ≤ s.now := by
  simp only [List.mem_map, List.mem_filter, List.mem_range, State.wakeDue, Bool.and_eq_true,
    beq_iff_eq, State.isReached_iff]
  constructor
  · rintro ⟨p, ⟨player, ⟨state, stalled⟩, reached⟩, rfl⟩
    exact ⟨p, player, rfl, state, stalled, reached⟩
  · rintro ⟨p, player, rfl, state, stalled, reached⟩
    exact ⟨p, ⟨player, ⟨state, stalled⟩, reached⟩, rfl⟩

/-- R147. -/
theorem Body.occurrenceDue_iff {e : Env} {b : Body} {n : Nat} :
    b.occurrenceDue e n = true ↔ b.port.loading = false ∧
      ∃ g ∈ (b.entry n).next, ∃ w ∈ e.time.tower,
        g.day * 86400000 + g.ms ≤ w.day * 86400000 + w.ms + b.cal.preRoll := by
  have reached : ∀ g : Trigger, b.reached e g = true ↔ ∃ w ∈ e.time.tower,
      g.day * 86400000 + g.ms ≤ w.day * 86400000 + w.ms + b.cal.preRoll := by
    intro g
    unfold Body.reached
    cases e.time.tower with
    | none => simp
    | some w =>
      simp only [Option.mem_def, Option.some.injEq, exists_eq_left', Trigger.full, TowerTime.full, dayLength]
      exact decide_eq_true_iff
  simp only [Body.occurrenceDue, Bool.and_eq_true, Bool.not_eq_true', Option.any_eq_true, reached,
    Option.mem_def]

theorem mem_occurrenceDue :
    c ∈ ((List.range 48).filter (s.body.occurrenceDue s.env)).map .launchInstant ↔
      ∃ n < 48, c = .launchInstant n ∧ s.body.port.loading = false ∧
        ∃ g ∈ (s.body.entry n).next, ∃ w ∈ s.time.tower,
          g.day * 86400000 + g.ms ≤ w.day * 86400000 + w.ms + s.body.cal.preRoll := by
  simp only [List.mem_map, List.mem_filter, List.mem_range, Body.occurrenceDue_iff]
  constructor
  · rintro ⟨n, ⟨entry, loading, due⟩, rfl⟩
    exact ⟨n, entry, rfl, loading, due⟩
  · rintro ⟨n, entry, rfl, loading, due⟩
    exact ⟨n, ⟨entry, loading, due⟩, rfl⟩

/-- R170. -/
theorem State.linkLossDue_iff :
    s.linkLossDue = true ↔ s.body.con.session = .live ∧ ∃ x ∈ s.body.con.lastByte, x + 40000 ≤ s.now := by
  unfold State.linkLossDue Console.linkDeadline
  by_cases live : s.body.con.session = .live <;> simp [live, State.isReached_iff]

theorem or_congr_two {a b d r r' : Prop} (h : a ∨ b ↔ d) (k : r ↔ r') : a ∨ b ∨ r ↔ d ∨ r' := by
  rw [← or_assoc, h, k]

theorem or_congr_three {a b c d r r' : Prop} (h : a ∨ b ∨ c ↔ d) (k : r ↔ r') :
    a ∨ b ∨ c ∨ r ↔ d ∨ r' := by
  rw [← h, ← k, or_assoc, or_assoc]

/-- An event of one row is due where its condition holds. -/
theorem mem_only_iff {p : Bool} {d : Instr} {q : Prop} (h : p = true ↔ q) : c ∈ only p d ↔ c = d ∧ q := by
  rw [mem_only, h]

/-! ### The step -/

theorem step_idle (empty : s.pending = []) : step s = .next s.idle := by simp [step, empty]

/-- R1, R2: an eighth passes. -/
theorem TimeBase.tick_eq (t : TimeBase) :
    t.tick =
      let u : TimeBase := { t with runTime := min 281474976710655 (t.runTime + 1) }
      match t.tower with
      | none => u
      | some w =>
        if t.phase < 7 then { u with phase := t.phase + 1 }
        else if t.withhold then { u with phase := 0, withhold := false }
        else TimeBase.msPassed { u with phase := 0 } w := by
  unfold TimeBase.tick
  rw [TimeBase.towerTick_eq]
  cases t with
  | mk _ _ tower =>
    cases tower with
    | none => rfl
    | some w =>
      dsimp only
      split
      · rfl
      · split <;> rfl

/-- With something due, one of the events that are due is put in the queue. -/
theorem State.idle_due (free : s.rst.held = false) (due : s.dueEvents ≠ []) :
    ∃ c ∈ s.dueEvents, ∃ d : Nat,
      s.idle = { s with pending := [c], body := { s.body with draws := d } } := by
  unfold State.idle
  rw [if_neg (by simp [free])]
  cases events : s.dueEvents with
  | nil => exact absurd events due
  | cons c rest =>
    cases rest with
    | nil => exact ⟨c, List.mem_singleton.mpr rfl, s.body.draws, rfl⟩
    | cons d rest =>
      have inside : Config.freeChoice s.body.draws % (c :: d :: rest).length < (c :: d :: rest).length :=
        Nat.mod_lt _ (Nat.succ_pos _)
      refine ⟨_, ?_, _, rfl⟩
      rw [List.getD_eq_getElem _ _ inside]
      exact List.getElem_mem inside

/-- Settles O2, by the membership of each row in the list of due events. -/
theorem emptyQueueLetsTimePass : Obligations.EmptyQueueLetsTimePass := by
  intro s empty free
  rw [step_idle empty]
  refine ⟨fun none => ?passes, fun due => ?due, fun c => ?rows⟩
  case passes =>
    have idle : s.idle = s.setTime s.time.tick := by
      unfold State.idle
      rw [if_neg (by simp [free]), none]
    rw [idle, TimeBase.tick_eq]
    rfl
  case due =>
    obtain ⟨c, mem, d, idle⟩ := State.idle_due free due
    exact ⟨c, mem, d, congrArg _ idle⟩
  case rows =>
    simp only [State.dueEvents, List.append_assoc, List.mem_append]
    exact or_congr (mem_only_iff State.holdoverDue_iff) <|
      or_congr (mem_only_iff State.slewDue_iff) <|
      or_congr (mem_only_iff State.wholeSecondDue_iff) <|
      or_congr mem_only <|
      or_congr (mem_only_iff State.telegramDue_iff) <|
      or_congr_three mem_hammers <|
      or_congr_two mem_strikes <|
      or_congr_two mem_frames <|
      or_congr (mem_only_iff State.windowEnded_iff) <|
      or_congr (mem_only_iff decide_eq_true_iff) <|
      or_congr mem_claimDue <|
      or_congr mem_wakeDue <|
      or_congr mem_occurrenceDue <|
      or_congr mem_only (mem_only_iff State.linkLossDue_iff)

end Sys2Proof.Machine
end


section
/-! SUPPORT. The resets (R196, R199): what the release of POR and the warm reset leave, and the RST line. -/

namespace Sys2Proof.Machine

set_option Elab.async false

/-! ### Power on -/

theorem getD_replicate {α : Type} (n k : Nat) (x : α) : (List.replicate n x).getD k x = x := by
  by_cases h : k < n <;> simp [List.getD, h]

/-- R35: the default record of a bell number. -/
theorem powerOn_bell (boards : BitVec 3) (load belfry : Bool) {n : Nat} (h : n < 56) :
    (State.powerOn boards load belfry).bell n =
      Bell.default (decide (n < 8 * boardCount boards)) (some (defaultPlacement n)) := by
  simp [State.bell, State.powerOn, h]

/-- Settles O16, field by field: a list of equal values reads as that value at every place. -/
theorem powerOnResetValues : Obligations.PowerOnResetValues := by
  intro boards load belfry s
  refine ⟨_, rfl, rfl, rfl, rfl, rfl, rfl, fun n h => powerOn_bell boards load belfry h, ?maps, rfl,
    rfl, fun i => ⟨getD_replicate _ i _, getD_replicate _ i _⟩, fun p => getD_replicate _ p _, rfl,
    fun p => getD_replicate _ p _, fun n => getD_replicate _ n _, fun n => getD_replicate _ n _, rfl,
    rfl, rfl, rfl, rfl, rfl, rfl, rfl⟩
  case maps =>
    intro m pitch
    cases m with
    | a => exact getD_replicate _ pitch _
    | b => exact getD_replicate _ pitch _

/-! ### The warm reset -/

/-- R55: a calibrated bell's hammer settles, every other rests. -/
theorem Hammer.warm_eq (r : Bell) :
    let settles := r.present = true ∧ r.calibrated = true ∧ 0 < r.recovery
    Hammer.warm r =
      { state := if settles then .settle else .idle, band := none, send := none, expiry := none,
        contact := none, presumed := false, missBefore := none,
        timerEnd := if settles then some r.recovery else none } := by
  intro settles
  have test : (r.present && r.calibrated && decide (0 < r.recovery)) = true ↔ settles := by
    simp [settles, and_assoc]
  by_cases h : settles
  · rw [if_pos h, if_pos h]
    exact if_pos (test.2 h)
  · rw [if_neg h, if_neg h]
    exact if_neg (mt test.1 h)

/-- Settles O17: each block's own warm reset, written out. -/
theorem warmResetValues : Obligations.WarmResetValues := by
  intro s
  refine ⟨rfl, rfl, rfl, rfl, rfl, rfl, ?hammers, rfl, rfl, rfl, rfl, rfl, rfl, rfl, rfl, rfl, rfl,
    rfl, rfl⟩
  exact List.map_congr_left fun r _ => Hammer.warm_eq r

/-! ### The RST line -/

/-- Settles O18, by the state of the line and of the load. -/
theorem rstLineHoldsAndReleases : Obligations.RstLineHoldsAndReleases := by
  intro s
  have asserts : exec .rstAsserted s = execRstAsserted s := rfl
  have releases (belfry : Bool) : exec (.rstReleased belfry) s = execRstReleased belfry s := rfl
  refine ⟨fun off operating => ?_, fun off loading => ?_, fun belfry on held => ?_,
    fun belfry on free => ?_⟩
  · simp [asserts, execRstAsserted, off, operating]
  · simp [asserts, execRstAsserted, off, loading]
  · simp only [releases, execRstReleased, on, held, Bool.not_true, Bool.false_eq_true, if_false, if_true]
    rfl
  · simp [releases, execRstReleased, on, free]

theorem parseNothing_empty : parseNothing [] = some () := rfl

/-- Settles O19. -/
theorem restartIsAWarmReset : Obligations.RestartIsAWarmReset := by
  intro s heard
  unfold exec
  exact State.request_heard heard parseNothing_empty

/-! ### The header of the load -/

/-- R210: each length of the directory is positive. -/
theorem readDirectory_positive {bytes : List Byte} :
    ((readDirectory bytes).all fun d => decide (0 < d.2)) = true ↔
      ∀ k < 4, 0 < longAt bytes (6 + 8 * k) := by
  simp [readDirectory]

/-- R196, R210. -/
theorem headerGood_iff {bytes : List Byte} : headerGood bytes = true ↔
    bytes.length = 36 ∧ wordAt bytes 0 = 23121 ∧
      (crc16 (bytes.take 34)).toNat = wordAt bytes 34 ∧ ∀ k < 4, 0 < longAt bytes (6 + 8 * k) := by
  unfold headerGood
  rw [Bool.and_eq_true, readDirectory_positive]
  simp [and_assoc]

theorem exec_configHeaderRead {s : State} {read : Option (List Byte)} (free : s.rst.held = false)
    (awaits : s.awaitsHeader = true) :
    exec (.configHeaderRead read) s = .next (s.headerRead read) := by
  unfold exec
  refine (State.running_free free _).trans ?_
  rw [if_pos awaits]

/-- R196: the load ends without a directory. -/
theorem State.headerRead_bad {s : State} {read : Option (List Byte)}
    (bad : ∀ bytes, read = some bytes → headerGood bytes = false) :
    let p := Port.raise { s.body.port with
      header := if read.isSome then .badHeader else .noMemory,
      sections := List.replicate 4 (.defaults, 0) } .configError
    s.headerRead read = (s.setPort p).loadEnd := by
  unfold State.headerRead
  cases read with
  | none => rfl
  | some bytes =>
    simp only [bad bytes rfl]
    rfl

/-- R199: the reset that waited for the load. -/
theorem State.deferredReset_eq (s : State) :
    s.deferredReset = if s.rst.deferred then
      if s.rst.asserted then { s.warm with rst := { asserted := true, held := true, deferred := false } }
      else s.warm.leaveReset .line
    else s := rfl

/-- Settles O20. -/
theorem configHeaderDecidesTheLoad : Obligations.ConfigHeaderDecidesTheLoad := by
  refine ⟨fun s free loading load notRead => ?_, fun bytes => headerGood_iff, fun s => ?_⟩
  · have awaits : s.awaitsHeader = true := by simp [State.awaitsHeader, loading, load, notRead]
    refine ⟨fun bytes good => ?_, fun read bad => ?_⟩
    · rw [exec_configHeaderRead free awaits]
      exact congrArg _ (if_pos good)
    · rw [exec_configHeaderRead free awaits, State.headerRead_bad bad]
  · refine ⟨rfl, fun off => ?_, fun on asserted => ?_, fun on released => ?_⟩
    · rw [State.deferredReset_eq, if_neg (by simp [off])]
    · rw [State.deferredReset_eq, if_pos on, if_pos asserted]
    · rw [State.deferredReset_eq, if_pos on, if_neg (by simp [released])]
      rfl

end Sys2Proof.Machine
end


section
/-! SUPPORT. Strikes that leave the queue (R70 to R76): what they hand on, one by one and together. -/

namespace Sys2Proof.Machine

set_option Elab.async false

/-! ### What a strike that leaves hands on -/

/-- R58: the strikes of players 1 to 7 in a list. -/
def tuneCount (l : List Strike) : Nat := l.countP fun x => x.player.any fun q => decide (1 ≤ q ∧ q ≤ 7)

theorem sum_players_eq (x : Option Nat) :
    ((List.range 7).map fun i => if (x == some (i + 1)) = true then 1 else 0).sum =
      if (x.any fun q => decide (1 ≤ q ∧ q ≤ 7)) = true then 1 else 0 := by
  cases x with
  | none => decide
  | some q =>
    by_cases above : 7 < q
    · have none (i : Nat) (h : i < 7) : ¬ q = i + 1 := by omega
      simp [List.range_succ, Option.any, show ¬ q ≤ 7 by omega, none]
    · have : q ≤ 7 := by omega
      interval_cases q <;> decide

/-- R58: the tune total counts the strikes of players 1 to 7. -/
theorem tuneTotal_eq (b : Body) : b.tuneTotal = tuneCount b.sched.queue := by
  unfold Body.tuneTotal Body.queuedCount tuneCount
  induction b.sched.queue with
  | nil => decide
  | cons k l ih =>
    simp only [List.countP_cons, ← sum_players_eq, ← ih]
    simp only [List.sum_map_add]

theorem queuedCount_eq (b : Body) (p : Nat) :
    b.queuedCount p = b.sched.queue.countP fun k => decide (k.player = some p) := by
  unfold Body.queuedCount
  exact List.countP_congr fun k _ => by simp

/-- R75, R167: the events that a strike hands on as it leaves the others of a list. -/
def Strike.leaving (way : Way) (others : List Strike) (k : Strike) : List Msg :=
  (match k.player with
    | some p => [Msg.removal p way (others.countP fun x => decide (x.player = some p)) (tuneCount others)]
    | none => []) ++ [Msg.considerHead]

theorem Strike.leaving_perm {l m : List Strike} (h : l.Perm m) (way : Way) (k : Strike) :
    k.leaving way l = k.leaving way m := by
  unfold Strike.leaving tuneCount
  cases k.player with
  | none => rfl
  | some p => simp only [h.countP_eq]

/-- R76: this many strikes left by one way. -/
def Scheduler.counted (c : Scheduler) (way : Way) (n : Counter) : Scheduler :=
  match way with
  | .fired => { c with fired := c.fired + n }
  | .withdrawn => { c with withdrawn := c.withdrawn + n }
  | .late => { c with discardedLate := c.discardedLate + n }
  | .blocked => { c with discardedBlocked := c.discardedBlocked + n }
  | .unavailable => { c with discardedUnavailable := c.discardedUnavailable + n }

theorem Scheduler.countWay_eq (c : Scheduler) (way : Way) : c.countWay way = c.counted way 1 := by
  cases way <;> rfl

theorem Scheduler.counted_zero (c : Scheduler) (way : Way) : c.counted way 0 = c := by
  cases way <;> simp [Scheduler.counted]

theorem Scheduler.counted_counted (c : Scheduler) (way : Way) (m n : Counter) :
    (c.counted way m).counted way n = c.counted way (m + n) := by
  cases way <;> simp [Scheduler.counted, BitVec.add_assoc]

/-- The Scheduler with another queue. -/
def Scheduler.withQueue (c : Scheduler) (l : List Strike) : Scheduler := { c with queue := l }

theorem Scheduler.counted_withQueue (c : Scheduler) (l : List Strike) (way : Way) (n : Counter) :
    (c.withQueue l).counted way n = (c.counted way n).withQueue l := by
  cases way <;> rfl

theorem Scheduler.counted_queue (c : Scheduler) (way : Way) (n : Counter) :
    (c.counted way n).queue = c.queue := by
  cases way <;> rfl

/-- The counters rise as R76 says, and nothing else of the Scheduler changes. -/
theorem Scheduler.counted_fields (c : Scheduler) (l : List Strike) (way : Way) (n : Counter) :
    let d := (c.counted way n).withQueue l
    d.fired = c.fired + (if way = .fired then n else 0) ∧
    d.withdrawn = c.withdrawn + (if way = .withdrawn then n else 0) ∧
    d.discardedLate = c.discardedLate + (if way = .late then n else 0) ∧
    d.discardedBlocked = c.discardedBlocked + (if way = .blocked then n else 0) ∧
    d.discardedUnavailable = c.discardedUnavailable + (if way = .unavailable then n else 0) ∧
    d.admitted = c.admitted := by
  cases way <;> simp [Scheduler.counted, Scheduler.withQueue]

/-! ### One strike leaves -/

/-- A body whose Scheduler and mail are these. -/
def Body.left (b : Body) (c : Scheduler) (told : List Msg) : Body :=
  { b with sched := c, mail := b.mail ++ told }

theorem Body.removeAt_eq {b : Body} {position : Nat} {k : Strike} (way : Way)
    (h : b.sched.queue[position]? = some k) :
    b.removeAt position way =
      b.left ((b.sched.counted way 1).withQueue (b.sched.queue.eraseIdx position))
        (k.leaving way (b.sched.queue.eraseIdx position)) := by
  have queue : (b.sched.countWay way).queue = b.sched.queue := by cases way <;> rfl
  unfold Body.removeAt Strike.leaving
  simp only [h, queue, tuneTotal_eq, queuedCount_eq, ← Scheduler.countWay_eq]
  cases k.player with
  | none => rfl
  | some p => simp only [Body.left, Body.send, List.append_assoc]; rfl

theorem Body.removeAt_none {b : Body} {position : Nat} (way : Way)
    (h : b.sched.queue[position]? = none) : b.removeAt position way = b := by
  unfold Body.removeAt
  simp only [h]

/-! ### Strikes leave together -/

/-- What strikes that leave one after another hand on, when these stay. -/
def leavingAll (way : Way) (kept : List Strike) : List Strike → List Msg
  | [] => []
  | k :: later => k.leaving way (kept ++ later) ++ leavingAll way kept later

theorem findIdx?_split {α : Type} {p : α → Bool} {l : List α} {i : Nat} (h : l.findIdx? p = some i) :
    ∃ earlier x later, l = earlier ++ x :: later ∧ earlier.length = i ∧ p x = true ∧
      ∀ y ∈ earlier, p y = false := by
  obtain ⟨bound, here, before⟩ := List.findIdx?_eq_some_iff_getElem.1 h
  refine ⟨l.take i, l[i], l.drop (i + 1), ?_, ?_, here, fun y hy => ?_⟩
  · simp
  · simp only [List.length_take]
    omega
  · obtain ⟨j, hj, rfl⟩ := List.mem_iff_getElem.1 hy
    rw [List.length_take] at hj
    simpa using before j (by omega)

/-- Nothing leaves when no strike meets the condition. -/
theorem Body.left_none {b : Body} {cond : Strike → Bool} (way : Way)
    (h : ∀ k ∈ b.sched.queue, cond k = false) :
    b = b.left ((b.sched.counted way (BitVec.ofNat 32 (b.sched.queue.countP cond))).withQueue
        (b.sched.queue.filter fun k => !cond k))
      (leavingAll way (b.sched.queue.filter fun k => !cond k) (b.sched.queue.filter cond)) := by
  have gone : b.sched.queue.filter cond = [] := by simpa [List.filter_eq_nil_iff] using h
  have kept : (b.sched.queue.filter fun k => !cond k) = b.sched.queue := by
    simpa [List.filter_eq_self] using h
  have count : b.sched.queue.countP cond = 0 := by rw [List.countP_eq_length_filter, gone]; rfl
  rw [gone, kept, count]
  simp only [Body.left, leavingAll, List.append_nil]
  rw [show (BitVec.ofNat 32 0) = (0 : Counter) from rfl, Scheduler.counted_zero]
  rfl

theorem Body.removeWhere_eq (way : Way) (cond : Strike → Bool) (n : Nat) (b : Body)
    (h : b.sched.queue.countP cond ≤ n) :
    b.removeWhere way cond n =
      b.left ((b.sched.counted way (BitVec.ofNat 32 (b.sched.queue.countP cond))).withQueue
          (b.sched.queue.filter fun k => !cond k))
        (leavingAll way (b.sched.queue.filter fun k => !cond k) (b.sched.queue.filter cond)) := by
  induction n generalizing b with
  | zero =>
    have none : ∀ k ∈ b.sched.queue, cond k = false := by
      simpa using List.countP_eq_zero.1 (Nat.le_zero.1 h)
    exact Body.left_none way none
  | succ n ih =>
    cases found : b.sched.queue.findIdx? cond with
    | none =>
      have none : ∀ k ∈ b.sched.queue, cond k = false := by
        simpa [List.findIdx?_eq_none_iff] using found
      simp only [Body.removeWhere, found]
      exact Body.left_none way none
    | some i =>
      obtain ⟨earlier, k, later, queue, rfl, meets, before⟩ := findIdx?_split found
      have here : b.sched.queue[earlier.length]? = some k := by simp [queue]
      have erased : b.sched.queue.eraseIdx earlier.length = earlier ++ later := by
        simp [queue, List.eraseIdx_append_of_length_le]
      have stay : earlier.filter cond = [] := by simpa [List.filter_eq_nil_iff] using before
      have count : b.sched.queue.countP cond = (earlier ++ later).countP cond + 1 := by
        simp [queue, meets]; omega
      have gone : b.sched.queue.filter cond = k :: (earlier ++ later).filter cond := by
        simp [queue, stay, meets]
      have kept : (b.sched.queue.filter fun k => !cond k) = (earlier ++ later).filter fun k => !cond k := by
        simp [queue, meets]
      have told : k.leaving way (earlier ++ later) =
          k.leaving way (((earlier ++ later).filter fun k => !cond k) ++ (earlier ++ later).filter cond) :=
        Strike.leaving_perm (List.perm_append_comm.trans (List.filter_append_perm _ _)).symm way k
      have removed := Body.removeAt_eq way here
      rw [erased] at removed
      have shorter : (b.removeAt earlier.length way).sched.queue = earlier ++ later := by
        rw [removed]; rfl
      have fewer : (b.removeAt earlier.length way).sched.queue.countP cond ≤ n := by
        rw [shorter]; omega
      simp only [Body.removeWhere, found]
      rw [ih _ fewer, shorter, removed, count, gone, kept, leavingAll, ← told, BitVec.ofNat_add,
        BitVec.add_comm, ← Scheduler.counted_counted]
      simp only [Body.left, Scheduler.counted_withQueue, List.append_assoc]
      rfl

theorem Body.removeAll_eq (b : Body) (way : Way) (cond : Strike → Bool) :
    b.removeAll way cond =
      b.left ((b.sched.counted way (BitVec.ofNat 32 (b.sched.queue.countP cond))).withQueue
          (b.sched.queue.filter fun k => !cond k))
        (leavingAll way (b.sched.queue.filter fun k => !cond k) (b.sched.queue.filter cond)) :=
  Body.removeWhere_eq way cond _ b List.countP_le_length

theorem leavingAll_eq (way : Way) (kept l : List Strike) :
    leavingAll way kept l = (l.mapIdx fun j k => k.leaving way (kept ++ l.drop (j + 1))).flatten := by
  induction l with
  | nil => rfl
  | cons k later ih => simp [leavingAll, ih]

theorem exec_lateDiscard {s : State} {position : Nat} {k : Strike} (free : s.rst.held = false)
    (here : s.body.sched.queue[position]? = some k) (due : k.state = .due)
    (late : s.body.sched.lateLimit < s.now - k.fire + k.admittedLate) :
    exec (.lateDiscard position) s = .next (s.act fun _ b => b.removeAt position .late) := by
  have reached : s.lateAt position = true := by simp [State.lateAt, here, Body.tooLate, due, late]
  unfold exec
  refine (State.running_free free _).trans ?_
  rw [if_pos reached]

/-- Settles O41, from the rule of one strike that leaves and the rule of several that leave together. -/
theorem strikesLeaveTheQueueOneWay : Obligations.StrikesLeaveTheQueueOneWay := by
  refine ⟨fun b position way k here => ?_, fun _ _ => rfl, fun b way cond => ?_,
    fun s position k free here due late => exec_lateDiscard free here due late⟩
  · intro t
    have removed : t = _ := Body.removeAt_eq way here
    rw [removed]
    refine ⟨rfl, Scheduler.counted_fields _ _ way 1, ?_⟩
    simp only [queuedCount_eq, tuneTotal_eq, Body.left, Scheduler.withQueue, Strike.leaving,
      List.append_assoc] <;> rfl
  · intro t left
    have removed : t = _ := Body.removeAll_eq b way cond
    rw [removed]
    refine ⟨rfl, Scheduler.counted_fields _ _ way _, ?_⟩
    simp only [queuedCount_eq, tuneTotal_eq, Body.left, Scheduler.withQueue, leavingAll_eq, Strike.leaving,
      tuneCount, List.countP_append] <;> rfl

end Sys2Proof.Machine
end


section
/-! SUPPORT. Bell records and hammers (R21 to R48): SET-BELL, what reports do to a record, the ends of the
hammer's timers and the send completion. -/

namespace Sys2Proof.Machine

set_option Elab.async false

/-! ### The bell record -/

theorem Bell.health_eq (r : Bell) :
    r.health = if r.cause ≠ .noFailure then .failed else if r.missRun = 0 then .ready else .suspect := by
  unfold Bell.health
  cases r.cause <;> simp

/-- R24: the pulse rises from p1 at force 1 to p15 at force 15. -/
theorem Bell.pulse_between {r : Bell} {f : Nat} (low : 1 ≤ f) (high : f ≤ 15) (order : r.p1 ≤ r.p15) :
    r.p1 ≤ r.pulse f ∧ r.pulse f ≤ r.p15 ∧ (f = 15 → r.pulse f = r.p15) := by
  have part : (r.p15 - r.p1) * (f - 1) / 14 ≤ r.p15 - r.p1 :=
    Nat.div_le_of_le_mul (by rw [Nat.mul_comm 14]; exact Nat.mul_le_mul_left _ (by omega))
  unfold Bell.pulse
  refine ⟨Nat.le_add_right _ _, by omega, ?_⟩
  rintro rfl
  rw [Nat.mul_div_cancel _ (by decide)]
  omega

theorem Bell.capture_rejected {r : Bell} {band : Band} {v : Nat} (h : v < r.floor ∨ r.ceiling < v) :
    r.capture band v = { r with rejected := r.rejected + 1 } :=
  if_neg (by omega)

theorem Bell.capture_accepted {r : Bell} {v : Nat} (low : r.floor ≤ v) (high : v ≤ r.ceiling) :
    r.capture .soft v = { r with soft := r.soft.put v } ∧
      r.capture .loud v = { r with loud := r.loud.put v } :=
  ⟨if_pos ⟨low, high⟩, if_pos ⟨low, high⟩⟩

/-- R26: a presumed strike on a bell whose board is online counts a miss. -/
theorem Bell.presume_online (r : Bell) :
    let run := if r.missRun < 15 then r.missRun + 1 else 15
    r.presume true =
      { r with
        presumed := r.presumed + 1, missRun := run
        cause := if r.cause = .noFailure ∧ r.missLimit ≤ run then .misses else r.cause } := by
  have run : min 15 (r.missRun + 1) = if r.missRun < 15 then r.missRun + 1 else 15 := by
    split <;> omega
  simp only [Bell.presume, if_true, run]

/-- Settles O37, by the operations on a bell record. -/
theorem reportsChangeTheBellRecord : Obligations.ReportsChangeTheBellRecord := by
  intro r
  refine ⟨fun band => ?_, fun f low high order => ⟨rfl, Bell.pulse_between low high order⟩,
    fun band v outside => Bell.capture_rejected outside, fun v low high => Bell.capture_accepted low high,
    fun _ => rfl, rfl, r.presume_online, fun _ _ => rfl, rfl, rfl, r.health_eq⟩
  cases band <;> rfl

/-! ### SET-BELL -/

section SetBell

variable {s : State} {n : Nat} {c : Calibration}

/-- R20, R32: the pair of a placement is held by another present bell. -/
theorem State.pairHeld_iff {which : Nat → Bool} {x : Option (Nat × Nat)} :
    s.pairHeld which x = true ↔
      x ≠ none ∧ ∃ j < 56, which j = true ∧ (s.bell j).present = true ∧ (s.bell j).placement = x := by
  simp [State.pairHeld, and_assoc, Option.isSome_iff_ne_none]

theorem State.beyond_iff {x : Option (Nat × Nat)} :
    (x.any fun y => decide (s.body.port.boards < y.1)) = true ↔ ∃ y ∈ x, s.body.port.boards < y.1 := by
  simp only [Option.any_eq_true, decide_eq_true_eq, Option.mem_def]

/-- R29: the board of a placement is online. -/
theorem Body.placedOnline_eq (b : Body) (x : Option (Nat × Nat)) :
    b.placedOnline x = x.any fun y => (b.board y.1).online := by
  cases x <;> rfl

/-- R32: a placement that the board count or another bell does not allow. -/
def State.BadPlace (s : State) (n : Nat) (c : Calibration) : Prop :=
  (∃ x ∈ c.placement, s.body.port.boards < x.1) ∨
    (c.placement ≠ none ∧ ∃ j < 56, j ≠ n ∧ (s.bell j).present = true ∧
      (s.bell j).placement = c.placement)

/-- R32: a claim, a strike or a cycle uses the bell. -/
def State.BellInUse (s : State) (n : Nat) (c : Calibration) : Prop :=
  s.body.holder n ≠ none ∨ (∃ k ∈ s.body.sched.queue, k.bell = n) ∨
    (c.placement ≠ (s.bell n).placement ∧ (s.hammer n).state ≠ .idle)

theorem State.setBellRefusal_badPlace (h : s.BadPlace n c) : s.setBellRefusal n c = some .badOperand := by
  unfold State.setBellRefusal
  by_cases board : (c.placement.any fun x => decide (s.body.port.boards < x.1)) = true
  · simp [board]
  · have held : s.pairHeld (fun j => j != n) c.placement = true := by
      have pair := Or.resolve_left h (mt State.beyond_iff.2 board)
      exact State.pairHeld_iff.2 (by simpa using pair)
    simp [board, held]

theorem State.setBellRefusal_goodPlace (h : ¬ s.BadPlace n c) :
    s.setBellRefusal n c =
      if !(s.bell n).present then some .unavailable
      else if (s.body.holder n).isSome then some .inUse
      else if s.body.sched.queue.any fun k => k.bell == n then some .inUse
      else if c.placement ≠ (s.bell n).placement ∧ (s.hammer n).state ≠ .idle then some .inUse
      else none := by
  obtain ⟨board, pair⟩ := not_or.1 h
  have within : ¬ (c.placement.any fun x => decide (s.body.port.boards < x.1)) = true :=
    mt State.beyond_iff.1 board
  have free : ¬ s.pairHeld (fun j => j != n) c.placement = true := by
    rw [State.pairHeld_iff]
    simpa using pair
  unfold State.setBellRefusal
  rw [if_neg within, if_neg free]

theorem State.setBellRefusal_inUse (h : ¬ s.BadPlace n c) (present : (s.bell n).present = true)
    (use : s.BellInUse n c) : s.setBellRefusal n c = some .inUse := by
  rw [State.setBellRefusal_goodPlace h, present]
  by_cases held : s.body.holder n = none
  · by_cases queued : ∃ k ∈ s.body.sched.queue, k.bell = n
    · simp [queued]
    · have moves := (use.resolve_left (by simp [held])).resolve_left queued
      simp [moves]
  · simp [Option.isSome_iff_ne_none, held]

theorem State.setBellRefusal_none (h : ¬ s.BadPlace n c) (present : (s.bell n).present = true)
    (use : ¬ s.BellInUse n c) : s.setBellRefusal n c = none := by
  obtain ⟨held, other⟩ := not_or.1 use
  obtain ⟨queued, moves⟩ := not_or.1 other
  have unheld : s.body.holder n = none := Classical.not_not.1 held
  have unqueued : ¬ (s.body.sched.queue.any fun k => k.bell == n) = true := by simpa using queued
  rw [State.setBellRefusal_goodPlace h, present, unheld, if_neg (by simp), if_neg (by simp),
    if_neg unqueued, if_neg moves]

theorem State.ownSetBell_refused {x : Status} (h : s.setBellRefusal n c = some x) :
    s.ownSetBell (n, c) = s.refuse x := by
  simp only [State.ownSetBell, h]

theorem State.ownSetBell_written (h : s.setBellRefusal n c = none) :
    s.ownSetBell (n, c) = (s.writeBell n (s.recalibrated n c)).finish.done [] := by
  simp only [State.ownSetBell, h]

theorem exec_setBell (p : List Byte) (s : State) :
    exec (.setBell p) s = s.request p parseSetBell State.ownSetBell := rfl

theorem State.recalibrated_eq (s : State) (n : Nat) (c : Calibration) :
    s.recalibrated n c =
      { s.bell n with
        placement := c.placement, floor := c.floor, ceiling := c.ceiling, depth := c.depth,
        soft := { values := List.replicate 8 c.softSeed, position := 0 },
        loud := { values := List.replicate 8 c.loudSeed, position := 0 },
        window := c.window, mask := c.mask, recovery := c.recovery, p1 := c.p1, p15 := c.p15,
        missLimit := c.missLimit, missRun := 0, cause := .noFailure, calibrated := true,
        boardOnline := c.placement.any fun x => (s.board x.1).online } := by
  unfold State.recalibrated
  rw [Body.placedOnline_eq]
  rfl

end SetBell

/-- Settles O35, by the refusals of R32 in their order. -/
theorem setBellChecksThenWrites : Obligations.SetBellChecksThenWrites := by
  intro s p n c heard read r refused badPlace inUse
  have refuses {x : Status} (h : (s.heard p).setBellRefusal n c = some x) : refused x := by
    simp only [refused, exec_setBell]
    exact State.request_refused heard read (State.ownSetBell_refused h)
  refine ⟨fun bad => refuses (State.setBellRefusal_badPlace bad), fun good absent => refuses ?_,
    fun good present use => refuses (State.setBellRefusal_inUse good present use),
    fun good present unused => ?_⟩
  · rw [State.setBellRefusal_goodPlace (s := s.heard p) good]
    exact if_pos (by simpa using absent)
  · rw [exec_setBell, State.request_heard heard read,
      State.ownSetBell_written (s := s.heard p) (State.setBellRefusal_none good present unused), State.recalibrated_eq]
    rfl

/-! ### Contact reports -/

/-- R41, step 5; R42: a flight is closed with the mask of the record as it stands. -/
theorem State.leaveDrive_eq (s : State) (i base : Nat) (h : Hammer) :
    s.leaveDrive i base h ((s.bell i).maskFor h.cycleBand) = s.flightClosed i base h := rfl

/-- Settles O38, by the state of the hammer. -/
theorem contactReportsByHammerState : Obligations.ContactReportsByHammerState := by
  intro s i age h send instant
  refine ⟨fun drive => ?_, fun mask presumed => ?_⟩
  · have taken : s.contactReport i age = s.takeContact i age := by
      simp only [State.contactReport, show (s.hammer i).state = .drive from drive]
    exact taken
  · have taken : s.contactReport i age = s.takeLateContact i age := by
      simp only [State.contactReport, show (s.hammer i).state = .mask from mask,
        show (s.hammer i).presumed = true from presumed, if_true]
    exact taken

/-! ### The ends of the timers -/

section Timers

variable {s : State} {i e : Nat}

theorem State.hammerDue_of {x : HammerState} (timer : (s.hammer i).timerEnd = some e) (reached : e ≤ s.now)
    (state : (s.hammer i).state = x) : s.hammerDue x i = true := by
  simp [State.hammerDue, state, State.isReached, timer, reached]

theorem exec_expiry (free : s.rst.held = false) (due : s.hammerDue .drive i = true) :
    exec (.expiry i) s = .next (s.presume i).finish := by
  unfold exec
  refine (State.running_free free _).trans ?_
  rw [if_pos due]

theorem exec_maskEnd (free : s.rst.held = false) (due : s.hammerDue .mask i = true) :
    exec (.maskEnd i) s = .next (s.maskEnds i).finish := by
  unfold exec
  refine (State.running_free free _).trans ?_
  rw [if_pos due]

theorem exec_settleEnd (free : s.rst.held = false) (due : s.hammerDue .settle i = true) :
    exec (.settleEnd i) s = .next (s.act fun _ b => b.enterIdle i) := by
  unfold exec
  refine (State.running_free free _).trans ?_
  rw [if_pos due]

/-- R42: the strike is presumed, and the flight closed at its expiry. -/
theorem State.presume_eq (s : State) (i : Nat) :
    let h := s.hammer i
    let h' := { h with presumed := true, missBefore := some (s.bell i).missRun }
    s.presume i = State.flightClosed ((s.setHammer i h').writeBell i
      ((s.bell i).presume (s.bell i).boardOnline)) i (h.expiry.getD s.now) h' := by
  intro h h'
  have now : ((s.setHammer i h').writeBell i ((s.bell i).presume (s.bell i).boardOnline)).now = s.now := by
    simp only [State.now, State.writeBell_time]
    rfl
  rw [← now]
  rfl

theorem State.maskEnds_eq (timer : (s.hammer i).timerEnd = some e) :
    (s.maskEnds i).finish =
      if (s.bell i).recovery = 0 then s.act fun _ b => b.enterIdle i
      else (s.setHammer i { s.hammer i with
        state := .settle, timerEnd := some (e + (s.bell i).recovery) }).finish := by
  unfold State.maskEnds
  simp only [timer, Option.map_some]
  by_cases none : (s.bell i).recovery = 0
  · rw [if_pos none, if_neg (by omega)]
    rfl
  · rw [if_neg none, if_pos (by omega)]

end Timers

/-- Settles O40, by the state whose timer ends. -/
theorem hammerTimersEnd : Obligations.HammerTimersEnd := by
  refine ⟨fun s i e free timer reached => ⟨fun drive => ?_, fun mask => ?_, fun settle => ?_⟩,
    fun _ _ => rfl⟩
  · rw [exec_expiry free (State.hammerDue_of timer reached drive), State.presume_eq]
  · rw [exec_maskEnd free (State.hammerDue_of timer reached mask), State.maskEnds_eq timer]
  · exact exec_settleEnd free (State.hammerDue_of timer reached settle)

/-! ### Send completion -/

theorem exec_sendCompletion {s : State} {bell ends : Nat} (free : s.rst.held = false)
    (line : s.body.bus.line = .actuate bell ends false) (ended : ends ≤ s.now) :
    exec .sendCompletion s = .next (s.orderSent bell).finish := by
  have due : s.frameEnded false = some bell := by simp [State.frameEnded, line, ended]
  unfold exec
  refine (State.running_free free _).trans ?_
  simp only [due]

theorem filter_otherBell (l : List Order) (bell : Nat) :
    (l.filter fun o => o.bell != bell) = l.filter fun o => o.bell ≠ bell :=
  List.filter_congr fun o _ => by by_cases h : o.bell = bell <;> simp [h]

/-- Settles O47. The run time is that of the completion, whatever the bell record's write hands on. -/
theorem sendCompletionStartsTheFlight : Obligations.SendCompletionStartsTheFlight := by
  intro s bell ends free line ended h r expiry sent u
  have taken : ((s.setBody (s.body.setBus { s.body.bus with
      sendList := s.body.bus.sendList.filter (fun o => o.bell != bell)
      actuatesSent := s.body.bus.actuatesSent + 1
      consecutive := s.body.bus.consecutive + 1 })).sendCompleted bell) = u := by
    rw [filter_otherBell]
    rfl
  have now : u.now = s.now := by
    rw [← taken]
    exact congrArg TimeBase.runTime (outside_sendCompleted bell (State.Outside.refl _)).time
  rw [exec_sendCompletion free line ended, ← now, ← taken]
  rfl

end Sys2Proof.Machine
end


section
/-! SUPPORT. Orders that are cancelled (R39, R178 to R180, R185): one, and several together. -/

namespace Sys2Proof.Machine

set_option Elab.async false

variable {b : Body}

/-! ### One order cancelled -/

theorem Line.cutOff_eq (l : Line) (bell : Nat) :
    l.cutOff bell = match l with
      | .actuate x ends cut => .actuate x ends (cut || x == bell)
      | line => line := by
  cases l with
  | idle => rfl
  | poll _ _ => rfl
  | actuate x ends cut =>
    by_cases h : x = bell <;> simp [Line.cutOff, h]

/-- R178: an order for the bell stands in the list. -/
theorem Body.orderOf_isSome {bell : Nat} : (b.orderOf bell).isSome = true ↔ ∃ o ∈ b.bus.sendList, o.bell = bell := by
  simp [Body.orderOf]

/-- R48: the part of a hammer at rest that a cancellation leaves. -/
theorem cancelOrder_absent {bell : Nat} (cause : CancelCause) (h : ∀ o ∈ b.bus.sendList, o.bell ≠ bell) :
    b.cancelOrder bell cause = b := by
  have none : b.orderOf bell = none := by simpa [Body.orderOf] using h
  simp only [Body.cancelOrder, none]

/-- R178, R179: the bus once the orders for these bells, this many, are cancelled. -/
def Bus.without (u : Bus) (cause : CancelCause) (named : Nat → Bool) (n : Counter) : Bus :=
  { u with
    sendList := u.sendList.filter fun x => !named x.bell
    line := match u.line with
      | .actuate x ends cut => .actuate x ends (cut || named x)
      | line => line
    cancelledAccess := u.cancelledAccess + (if cause = .access then n else 0)
    cancelledOffline := u.cancelledOffline + (if cause = .offline then n else 0)
    cancelledUnavailable := u.cancelledUnavailable + (if cause = .unavailable then n else 0) }

theorem countCancel_without (u : Bus) (bell : Nat) (cause : CancelCause) :
    { u.countCancel cause with
      sendList := (u.countCancel cause).sendList.filter (fun o => o.bell != bell)
      line := (u.countCancel cause).line.cutOff bell } = u.without cause (· == bell) 1 := by
  simp only [Line.cutOff_eq]
  cases cause <;> simp [Bus.countCancel, Bus.without] <;> rfl

theorem cancelOrder_present {bell : Nat} (cause : CancelCause) (h : ∃ o ∈ b.bus.sendList, o.bell = bell) :
    b.cancelOrder bell cause = (b.setBus (b.bus.without cause (· == bell) 1)).cancelHammer bell := by
  obtain ⟨o, some⟩ := Option.isSome_iff_exists.1 (Body.orderOf_isSome.2 h)
  simp only [Body.cancelOrder, some, countCancel_without]

/-! ### Several orders cancelled -/

/-- R39: the hammer of a bell whose order is cancelled. -/
def Hammer.relieved (h : Hammer) (named : Bool) : Hammer :=
  if named = true ∧ h.state = .ordered then .rest h.band else h

theorem Hammer.relieved_relieved (h : Hammer) (x y : Bool) :
    (h.relieved x).relieved y = h.relieved (x || y) := by
  unfold Hammer.relieved
  by_cases ordered : h.state = .ordered
  · cases x <;> cases y <;> simp [ordered, Hammer.rest]
  · simp [ordered]

/-- R179: the body once the orders for these bells are cancelled and these events handed on. -/
def Body.relieved (b : Body) (cause : CancelCause) (named : Nat → Bool) (n : Counter) (freed : List Msg) :
    Body :=
  { b with
    bus := b.bus.without cause named n
    hammers := b.hammers.mapIdx fun i h => h.relieved (named i)
    mail := freed ++ b.mail }

theorem Body.relieved_hammer (cause : CancelCause) (named : Nat → Bool) (n : Counter) (freed : List Msg)
    (i : Nat) : (b.relieved cause named n freed).hammer i = (b.hammer i).relieved (named i) := by
  unfold Body.hammer Body.relieved
  simp only [List.getD_eq_getElem?_getD, List.getElem?_mapIdx]
  cases b.hammers[i]? with
  | none => simp [Hammer.relieved, Hammer.rest]
  | some h => rfl

theorem Bus.without_without (u : Bus) (cause : CancelCause) (p q : Nat → Bool) (m n : Counter) :
    (u.without cause p m).without cause q n = u.without cause (fun i => p i || q i) (m + n) := by
  unfold Bus.without
  cases u.line <;> cases cause <;>
    simp [List.filter_filter, Bool.and_comm, BitVec.add_assoc, Bool.or_assoc]

theorem Body.relieved_relieved (cause : CancelCause) (p q : Nat → Bool) (m n : Counter) (f g : List Msg) :
    (b.relieved cause p m f).relieved cause q n g =
      b.relieved cause (fun i => p i || q i) (m + n) (g ++ f) := by
  simp only [Body.relieved, Bus.without_without, List.mapIdx_mapIdx, List.append_assoc]
  congr 1
  exact List.mapIdx_eq_mapIdx_iff.2 fun i _ => by simp [Hammer.relieved_relieved]

/-- R48: the event of the hammer that a cancellation frees. -/
def Body.freedBy (b : Body) (bell : Nat) : List Msg :=
  if (b.hammer bell).state = .ordered then [.hammerFree bell] else []

theorem mapIdx_relieved (l : List Hammer) (bell : Nat) :
    (l.mapIdx fun i h => h.relieved (i == bell)) =
      if (l.getD bell (.rest none)).state = .ordered then l.set bell (.rest (l.getD bell (.rest none)).band)
      else l := by
  refine List.ext_getElem? fun i => ?_
  rw [List.getElem?_mapIdx]
  by_cases here : i = bell
  · subst here
    cases at_ : l[i]? with
    | none =>
      have beyond : l.length ≤ i := List.getElem?_eq_none_iff.1 at_
      split <;> simp [beyond]
    | some h =>
      have bound : i < l.length := (List.getElem?_eq_some_iff.1 at_).1
      simp only [List.getD_eq_getElem?_getD, at_, Option.getD_some, Option.map_some, Hammer.relieved,
        BEq.rfl, true_and]
      by_cases ordered : h.state = .ordered
      · rw [if_pos ordered, if_pos ordered, List.getElem?_set_self bound]
      · rw [if_neg ordered, if_neg ordered, at_]
  · have other : (fun h : Hammer => h.relieved (i == bell)) = id := by
      funext h
      simp [Hammer.relieved, here]
    rw [other, Option.map_id]
    split
    · rw [List.getElem?_set_ne (Ne.symm here)]
      rfl
    · rfl

theorem cancelOrder_relieved {bell : Nat} (cause : CancelCause) (h : ∃ o ∈ b.bus.sendList, o.bell = bell) :
    b.cancelOrder bell cause = b.relieved cause (· == bell) 1 (b.freedBy bell) := by
  rw [cancelOrder_present cause h]
  unfold Body.relieved Body.freedBy Body.cancelHammer
  rw [mapIdx_relieved]
  by_cases ordered : (b.hammer bell).state = .ordered
  · have ordered' : (b.hammers.getD bell (.rest none)).state = .ordered := ordered
    rw [if_pos ordered', if_pos ordered]
    exact if_pos ordered
  · have idle : ¬ (b.hammers.getD bell (.rest none)).state = .ordered := ordered
    rw [if_neg idle, if_neg ordered]
    exact if_neg ordered

theorem freedBy_relieved {bell : Nat} (cause : CancelCause) (named : Nat → Bool) (n : Counter)
    (freed : List Msg) (other : named bell = false) :
    (b.relieved cause named n freed).freedBy bell = b.freedBy bell := by
  unfold Body.freedBy
  rw [Body.relieved_hammer, other]
  rfl

/-- R180, R185: orders cancelled together, each of them in the list. -/
theorem cancelOrders_relieved (cause : CancelCause) (l : List Order) (each : (l.map (·.bell)).Nodup)
    (listed : ∀ o ∈ l, ∃ x ∈ b.bus.sendList, x.bell = o.bell) :
    b.cancelOrders cause l = b.relieved cause (fun i => l.any fun o => o.bell == i)
      (BitVec.ofNat 32 l.length) (l.reverse.flatMap fun o => b.freedBy o.bell) := by
  induction l generalizing b with
  | nil =>
    have bus : b.bus.without cause (fun _ => false) 0#32 = b.bus := by
      unfold Bus.without
      cases b.bus with
      | mk _ line => cases line <;> simp
    have hammers : (b.hammers.mapIdx fun _ h => h) = b.hammers :=
      List.ext_getElem? fun i => by simp
    simp [Body.cancelOrders, Body.relieved, bus, Hammer.relieved, hammers]
  | cons o rest ih =>
    obtain ⟨first, later⟩ := List.nodup_cons.1 each
    have apart (x : Order) (h : x ∈ rest) : (x.bell == o.bell) = false := by
      have : x.bell ≠ o.bell := fun same => first (List.mem_map.2 ⟨x, h, same⟩)
      simpa using this
    have still : ∀ x ∈ rest, ∃ y ∈ (b.cancelOrder o.bell cause).bus.sendList, y.bell = x.bell := by
      intro x h
      obtain ⟨y, mem, same⟩ := listed x (List.mem_cons_of_mem _ h)
      rw [cancelOrder_relieved cause (listed o List.mem_cons_self)]
      have other : (y.bell == o.bell) = false := same ▸ apart x h
      exact ⟨y, List.mem_filter.2 ⟨mem, by simp only [other, Bool.not_false]⟩, same⟩
    have freed : (rest.reverse.flatMap fun x => (b.cancelOrder o.bell cause).freedBy x.bell) =
        rest.reverse.flatMap fun x => b.freedBy x.bell := by
      refine List.flatMap_congr fun x h => ?_
      rw [cancelOrder_relieved cause (listed o List.mem_cons_self)]
      exact freedBy_relieved cause _ _ _ (apart x (List.mem_reverse.1 h))
    rw [Body.cancelOrders, ih later still, freed, cancelOrder_relieved cause (listed o List.mem_cons_self),
      Body.relieved_relieved]
    simp only [List.any_cons, List.reverse_cons, List.flatMap_append, List.flatMap_singleton,
      List.length_cons, Nat.add_comm rest.length 1, BitVec.ofNat_add]
    congr 2
    funext i
    rw [BEq.comm]

theorem freed_reverse (b : Body) (l : List Order) :
    (l.reverse.flatMap fun o => b.freedBy o.bell) =
      ((l.filter fun o => (b.hammer o.bell).state == .ordered).map fun o => Msg.hammerFree o.bell).reverse := by
  induction l with
  | nil => rfl
  | cons o rest ih =>
    rw [List.reverse_cons, List.flatMap_append, ih, List.flatMap_singleton, Body.freedBy]
    by_cases ordered : (b.hammer o.bell).state = .ordered
    · rw [if_pos ordered, List.filter_cons_of_pos (by simpa using ordered)]
      simp
    · rw [if_neg ordered, List.filter_cons_of_neg (by simpa using ordered)]
      simp

/-! ### The settings of the queue -/

theorem Body.quotaTooLow_iff {quotas : List Nat} :
    b.quotaTooLow quotas = true ↔ ∃ i < 7, quotas.getD i 0 < b.queuedCount (i + 1) := by
  simp [Body.quotaTooLow]

theorem exec_setQueue (p : List Byte) (s : State) :
    exec (.setQueue p) s = s.request p parseSetQueue State.ownSetQueue := rfl

section SetQueue

variable {s : State} {p : List Byte} {quotas : List Nat} {horizon late : Nat}

theorem exec_setQueue_refused (heard : Heard s p) (read : parseSetQueue p = some (quotas, horizon, late))
    (low : s.body.quotaTooLow quotas = true) :
    exec (.setQueue p) s = .next (s.answer p (.refuse .inUse)) := by
  rw [exec_setQueue]
  exact State.request_refused heard read (if_pos low)

theorem exec_setQueue_taken (heard : Heard s p) (read : parseSetQueue p = some (quotas, horizon, late))
    (high : ¬ s.body.quotaTooLow quotas = true) :
    exec (.setQueue p) s =
      .next (((s.heard p).act fun e b => b.takeSettings e.now quotas horizon late).respond .plain) := by
  have owned : (s.heard p).ownSetQueue (quotas, horizon, late) =
      ((s.heard p).act fun e b => b.takeSettings e.now quotas horizon late).done [] := if_neg high
  rw [exec_setQueue, State.request_heard heard read, owned]
  rfl

end SetQueue

/-- R109: the settings event wakes the stalled tune and toll players, each once. -/
theorem Body.settingsEvent_eq (b : Body) : ∃ (order : List Nat) (d : Nat), order.Nodup ∧
    (∀ q, q ∈ order ↔ 1 ≤ q ∧ q ≤ 7 ∧ (b.player q).state = .playing ∧
      (b.player q).generation = .stalled) ∧
    b.settingsEvent = { b with mail := order.map Msg.decide ++ b.mail, draws := d } := by
  let stalled := (List.range 8).filter fun q =>
    q != 0 && (b.player q).state == .playing && (b.player q).generation == .stalled
  obtain ⟨told, d, perm, sent⟩ := b.sendFree_spec (stalled.map .decide)
  obtain ⟨order, rfl, reordered⟩ :
      Relation.Comp (fun l m => l = List.map Msg.decide m) List.Perm told stalled := by
    rw [List.eq_map_comp_perm]
    exact perm
  refine ⟨order, d, reordered.nodup_iff.2 (List.nodup_range.filter _), fun q => ?_, sent⟩
  rw [reordered.mem_iff, List.mem_filter, List.mem_range]
  simp only [Bool.and_eq_true, bne_iff_ne, beq_iff_eq, ne_eq]
  constructor
  · rintro ⟨below, ⟨other, playing⟩, stalls⟩
    exact ⟨by omega, by omega, playing, stalls⟩
  · rintro ⟨low, high, playing, stalls⟩
    exact ⟨by omega, ⟨by omega, playing⟩, stalls⟩

/-! ### Belfry Access -/

theorem exec_accessStateEvent {s : State} (free : s.rst.held = false) (a : Bool) :
    exec (.accessStateEvent a) s = .next
      (if s.body.sched.access = a then { s with belfry := a }
      else State.act { s with belfry := a } fun _ b => b.takeAccess a) := by
  unfold exec
  exact State.running_free free _

theorem exec_belfryAccessChange {s : State} (free : s.rst.held = false) (a : Bool) :
    exec (.belfryAccessChange a) s = .next
      (if s.body.bus.access = a then { s with belfry := a }
      else State.act { s with belfry := a } fun _ b => b.takeBelfry a) := by
  unfold exec
  exact State.running_free free _

theorem cancelOrder_eq {bell : Nat} (cause : CancelCause) (h : ∃ o ∈ b.bus.sendList, o.bell = bell) :
    b.cancelOrder bell cause =
      let u := b.bus.without cause (· == bell) 1
      if (b.hammer bell).state = .ordered then (b.setBus u).enterIdle bell else b.setBus u := by
  rw [cancelOrder_present cause h]
  rfl

theorem filter_bne_bell (l : List Order) (bell : Nat) :
    (l.filter fun o => !(o.bell == bell)) = l.filter fun o => o.bell ≠ bell :=
  filter_otherBell l bell

/-- Settles O45, by the rules of the queue's settings, of a change of access and of cancelled orders. -/
theorem queueSettingsAndBelfryAccess : Obligations.QueueSettingsAndBelfryAccess := by
  refine ⟨fun s p quotas horizon late heard read => ⟨fun low => ?_, fun high => ?_⟩,
    fun s a free => ?_, fun b => b.settingsEvent_eq, fun b cause => ?_,
    fun b cause l each listed => ?_, fun b bell cause => ⟨cancelOrder_absent cause, ?_⟩⟩
  · exact exec_setQueue_refused heard read (Body.quotaTooLow_iff.2 low)
  · refine (exec_setQueue_taken heard read fun low => ?_).trans rfl
    obtain ⟨i, bound, below⟩ := Body.quotaTooLow_iff.1 low
    exact Nat.not_lt.2 (high i bound) below
  · refine ⟨fun same => ?_, fun changes => ?_, fun same => ?_, fun changes => ?_⟩
    · rw [exec_accessStateEvent free, if_pos same]
    · rw [exec_accessStateEvent free, if_neg changes]
      rfl
    · rw [exec_belfryAccessChange free, if_pos same]
    · rw [exec_belfryAccessChange free, if_neg changes]
      rfl
  · refine List.eq_nil_iff_forall_not_mem.2 fun o mem => ?_
    obtain ⟨listed, others⟩ := cancelOrders_sendList cause _ o mem
    exact others o listed rfl
  · intro named n
    rw [cancelOrders_relieved cause l each listed, freed_reverse]
    rfl
  · intro o mem same
    rw [cancelOrder_eq cause ⟨o, mem, same⟩]
    simp only [Bus.without, filter_bne_bell] <;> rfl

end Sys2Proof.Machine
end


section
/-! SUPPORT. A bell record written (R29, R74, R172, R179): what a rise and a fall of availability do. -/

namespace Sys2Proof.Machine

set_option Elab.async false

/-! ### A fall -/

section Fall

variable (b : Body) (i : Nat)

/-- R74: the body once the strikes of a bell have left the queue as UNAVAILABLE. -/
def Body.strikesFallen : Body :=
  b.left { b.sched with
      queue := b.sched.queue.filter (fun k => k.bell ≠ i)
      discardedUnavailable := b.sched.discardedUnavailable +
        BitVec.ofNat 32 (b.sched.queue.countP fun k => k.bell = i) }
    (leavingAll .unavailable (b.sched.queue.filter fun k => !(k.bell == i))
      (b.sched.queue.filter fun k => k.bell == i))

theorem Body.removeBell_eq : (b.removeAll .unavailable fun k => k.bell == i) = b.strikesFallen i := by
  have stay : (b.sched.queue.filter fun k => !(k.bell == i)) = b.sched.queue.filter (fun k => k.bell ≠ i) :=
    List.filter_congr fun k _ => by by_cases h : k.bell = i <;> simp [h]
  have count : (b.sched.queue.countP fun k => k.bell == i) = b.sched.queue.countP fun k => k.bell = i :=
    List.countP_congr fun k _ => by simp
  rw [Body.removeAll_eq, Body.strikesFallen, count, stay]
  rfl

/-- R179: the bus once one order is cancelled because its bell fell. -/
theorem Bus.without_unavailable (u : Bus) (i : Nat) :
    u.without .unavailable (· == i) 1 = { u with
      sendList := u.sendList.filter fun o => !(o.bell == i)
      line := match u.line with
        | .actuate x ends cut => .actuate x ends (cut || x == i)
        | line => line
      cancelledUnavailable := u.cancelledUnavailable + 1 } := by
  unfold Bus.without
  cases u.line <;> simp

theorem Body.takeFall_unordered (h : ∀ o ∈ b.bus.sendList, o.bell ≠ i) :
    b.takeFall i = b.strikesFallen i := by
  unfold Body.takeFall
  rw [Body.removeBell_eq]
  exact cancelOrder_absent _ h

theorem Body.takeFall_ordered (h : ∃ o ∈ b.bus.sendList, o.bell = i) :
    b.takeFall i = (b.strikesFallen i).relieved .unavailable (· == i) 1 (b.freedBy i) := by
  unfold Body.takeFall
  rw [Body.removeBell_eq]
  exact cancelOrder_relieved _ h

/-- A fall changes the queue, the bus, the hammers and the mail alone. -/
theorem Body.takeFall_shape : ∃ u hammers mail, b.takeFall i =
    { b with sched := (b.strikesFallen i).sched, bus := u, hammers := hammers, mail := mail } := by
  by_cases listed : ∃ o ∈ b.bus.sendList, o.bell = i
  · exact ⟨_, _, _, b.takeFall_ordered i listed⟩
  · exact ⟨_, _, _, b.takeFall_unordered i fun o mem same => listed ⟨o, mem, same⟩⟩

theorem Body.takeFall_setPort (p : Port) : (b.setPort p).takeFall i = (b.takeFall i).setPort p := by
  by_cases listed : ∃ o ∈ b.bus.sendList, o.bell = i
  · rw [Body.takeFall_ordered (b.setPort p) i listed, b.takeFall_ordered i listed]
    rfl
  · have none : ∀ o ∈ b.bus.sendList, o.bell ≠ i := fun o mem same => listed ⟨o, mem, same⟩
    rw [Body.takeFall_unordered (b.setPort p) i none, b.takeFall_unordered i none]
    rfl

end Fall

/-! ### The lamps -/

/-- R172: the Console Interface once the lamps of a bell's pitches are computed again. -/
def Body.relitFor (e : Env) (b : Body) (bell : Nat) : Console :=
  if b.con.session = .off then b.con
  else { b.con with
    lamps := b.con.lamps.mapIdx fun p v => if b.pitchNames e bell p then b.lampValue e p else v }

theorem Body.lampsOfBell_eq (e : Env) (b : Body) (bell : Nat) :
    b.lampsOfBell e bell = b.setCon (b.relitFor e bell) := by
  unfold Body.lampsOfBell Body.recomputeLamps Body.relitFor
  split <;> rfl

theorem Body.pitchNames_iff {e : Env} {b : Body} {bell pitch : Nat} :
    b.pitchNames e bell pitch = true ↔ (e.entryOf b.con.settings.map pitch).primary = some bell ∨
      (e.entryOf b.con.settings.map pitch).alternate = some bell := by
  simp [Body.pitchNames]

theorem Body.relitFor_live {e : Env} {b : Body} (bell : Nat) (live : b.con.session ≠ .off) :
    b.relitFor e bell = { b.con with
      lamps := b.con.lamps.mapIdx fun k v =>
        if (e.entryOf b.con.settings.map k).primary = some bell ∨
          (e.entryOf b.con.settings.map k).alternate = some bell
        then (if (b.lookup e 0 b.con.settings.map k).isSome then .held else .lost) else v } := by
  unfold Body.relitFor
  simp only [if_neg live, Body.pitchNames_iff]
  rfl

/-! ### The record written -/

section Write

variable (s : State) (i : Nat) (r : Bell)

theorem Bell.health_failed : r.health = .failed ↔ r.cause ≠ .noFailure := by
  unfold Bell.health
  cases r.cause with
  | noFailure => by_cases h : r.missRun = 0 <;> simp [h]
  | misses => simp
  | boardFault => simp

theorem Bell.mayBeStruck_eq : r.mayBeStruck =
    (r.present && r.calibrated && !r.lockout && decide (r.cause = .noFailure) && r.boardOnline) := by
  have sound : (r.health != .failed) = decide (r.cause = .noFailure) := by
    by_cases h : r.cause = .noFailure
    · simpa [h] using (mt r.health_failed.1 (by simpa using h))
    · simpa [h] using r.health_failed.2 h
  unfold Bell.mayBeStruck
  rw [sound]

/-- R26, R28: the port once the record is written. -/
def State.bellPort : Port :=
  if (s.bell i).health ≠ .failed ∧ r.cause ≠ .noFailure then s.body.port.raise .bellFailed else s.body.port

/-- R29: what the blocks make of the change of availability, but for the port and the lamps. -/
def State.afterAvailability : Body := if r.mayBeStruck then s.body else s.body.takeFall i

theorem State.afterAvailability_shape : ∃ c u hammers mail,
    s.afterAvailability i r = { s.body with sched := c, bus := u, hammers := hammers, mail := mail } := by
  unfold State.afterAvailability
  split
  · exact ⟨_, _, _, _, rfl⟩
  · obtain ⟨u, hammers, mail, shape⟩ := s.body.takeFall_shape i
    exact ⟨_, u, hammers, mail, shape⟩

theorem State.writeBell_entryOf : (s.writeBell i r).env.entryOf = s.env.entryOf := by
  funext m pitch
  simp only [Env.entryOf, State.env, State.writeBell_mapA, State.writeBell_mapB]

theorem availabilityEvent_setPort (e : Env) (b : Body) (p : Port) (rises : Bool) :
    (b.setPort p).availabilityEvent e i rises =
      ((if rises then b else b.takeFall i).setPort p).setCon (b.relitFor e i) := by
  unfold Body.availabilityEvent
  rw [Body.lampsOfBell_eq, Body.takeFall_setPort]
  cases rises with
  | true => rfl
  | false =>
    obtain ⟨u, hammers, mail, shape⟩ := b.takeFall_shape i
    rw [shape]
    rfl

theorem State.writeBell_body : (s.writeBell i r).body =
    if r.mayBeStruck = (s.bell i).available then s.body.setPort (s.bellPort i r)
    else ((s.afterAvailability i r).setPort (s.bellPort i r)).setCon
      (s.body.relitFor (s.writeBell i r).env i) := by
  have env : (s.writeBell i r).env =
      State.env { s with bells := s.bells.set i { r with available := r.mayBeStruck } } := by
    simp only [State.env, State.writeBell_bells, State.writeBell_time, State.writeBell_memory,
      State.writeBell_mapA, State.writeBell_mapB]
  rw [env]
  unfold State.writeBell State.bellPort
  simp only [Bell.health_failed]
  by_cases same : r.mayBeStruck = (s.bell i).available
  · simp only [if_pos same]
    split <;> rfl
  · simp only [if_neg same]
    split
    · exact availabilityEvent_setPort i _ s.body (s.body.port.raise .bellFailed) _
    · exact availabilityEvent_setPort i _ s.body s.body.port _

end Write

theorem exec_lockBell (p : List Byte) (s : State) :
    exec (.lockBell p) s = s.request p (parseByte 55) fun s n => s.ownLock n true := rfl

theorem exec_unlockBell (p : List Byte) (s : State) :
    exec (.unlockBell p) s = s.request p (parseByte 55) fun s n => s.ownLock n false := rfl

/-- Settles O34, from what a record written leaves in the body. -/
theorem lockoutAndBellWrites : Obligations.LockoutAndBellWrites := by
  refine ⟨fun s n heard bell => ?_, fun s i r => ?_⟩
  · rw [exec_lockBell, exec_unlockBell, State.request_heard heard (parseByte_u8 bell (by decide)),
      State.request_heard heard (parseByte_u8 bell (by decide))]
    exact ⟨rfl, rfl⟩
  · intro t may
    have mayBe : r.mayBeStruck = may := r.mayBeStruck_eq
    have body : t.body = _ := s.writeBell_body i r
    rw [mayBe] at body
    have port : t.body.port = s.bellPort i r := by
      rw [body]
      split <;> rfl
    refine ⟨outside_writeBell i r (State.Outside.refl s), ?_, port, fun same => ?_, fun changes => ?_,
      fun rises before => ?_, fun falls before => ?_⟩
    · rw [← mayBe]
      exact s.writeBell_bells i r
    · rw [port, body, if_pos same]
      rfl
    · rw [if_neg changes] at body
      obtain ⟨c, u, hammers, mail, shape⟩ := s.afterAvailability_shape i r
      rw [shape] at body
      rw [body]
      refine ⟨rfl, rfl, rfl, rfl, rfl, fun off => if_pos off, fun live => ?_⟩
      rw [← s.writeBell_entryOf i r]
      exact Body.relitFor_live i live
    · rw [if_neg (by simp [rises, before])] at body
      have rose : s.afterAvailability i r = s.body := if_pos (mayBe.trans rises)
      rw [rose] at body
      rw [body]
      rfl
    · rw [if_neg (by simp [falls, before])] at body
      have fell : s.afterAvailability i r = s.body.takeFall i :=
        if_neg (by simp [mayBe, falls])
      rw [fell] at body
      rw [body]
      refine ⟨rfl, ?_, fun none => ?_, fun listed => ?_⟩
      · obtain ⟨u, hammers, mail, shape⟩ := s.body.takeFall_shape i
        rw [shape]
        rfl
      · rw [s.body.takeFall_unordered i none]
        exact ⟨rfl, rfl⟩
      · rw [s.body.takeFall_ordered i listed]
        refine ⟨?_, mapIdx_relieved s.body.hammers i⟩
        rw [← filter_bne_bell]
        exact s.body.bus.without_unavailable i

end Sys2Proof.Machine
end


section
/-! SUPPORT. The Strike Scheduler's dispatch and admission (R60 to R69, R77). -/

namespace Sys2Proof.Machine

set_option Elab.async false

/-! ### Dispatch -/

section Dispatch

variable {e : Env} {b : Body} {position : Nat} {k : Strike}

theorem Body.hammerFreeFor_iff {bell : Nat} : b.hammerFreeFor bell = true ↔
    (b.hammer bell).state = .idle ∧ ∀ o ∈ b.bus.sendList, o.bell ≠ bell := by
  simp [Body.hammerFreeFor, Body.orderOf]

theorem StrikeState.not_due {x : StrikeState} : ¬ x = .due ↔ x = .queued := by
  cases x <;> simp

/-- R69: a DUE strike is the bell's first one when no earlier strike of the bell is DUE. -/
theorem Body.firstDue_iff (here : b.sched.queue[position]? = some k) (due : k.state = .due) :
    b.firstDue k.bell position = true ↔
      ∀ j x, j < position → b.sched.queue[j]? = some x → x.bell = k.bell → x.state = .queued := by
  obtain ⟨bound, at_⟩ := List.getElem?_eq_some_iff.1 here
  unfold Body.firstDue
  rw [beq_iff_eq, List.findIdx?_eq_some_iff_getElem]
  constructor
  · rintro ⟨_, _, before⟩ j x less found same
    obtain ⟨_, rfl⟩ := List.getElem?_eq_some_iff.1 found
    exact StrikeState.not_due.1 fun isDue => before j less (by simp [same, isDue])
  · intro before
    refine ⟨bound, by simp [at_, due], fun j less meets => ?_⟩
    obtain ⟨same, isDue⟩ : (b.sched.queue[j]).bell = k.bell ∧ (b.sched.queue[j]).state = .due := by
      simpa using meets
    have queued := before j _ less (List.getElem?_eq_getElem (by omega)) same
    rw [queued] at isDue
    cases isDue

theorem Body.dispatchAt_blocked (here : b.sched.queue[position]? = some k) (access : b.sched.access = true) :
    b.dispatchAt e position = b.removeAt position .blocked := by
  simp only [Body.dispatchAt, here, access, if_true]

theorem Body.dispatchAt_open (here : b.sched.queue[position]? = some k) (access : b.sched.access = false) :
    b.dispatchAt e position =
      if b.hammerFreeFor k.bell && b.firstDue k.bell position then b.handOff e position else b := by
  simp only [Body.dispatchAt, here, access, Bool.false_eq_true, if_false]

/-- R67, R68, R69: what is done with a DUE strike. -/
theorem Body.dispatchAt_rule (here : b.sched.queue[position]? = some k) (due : k.state = .due) :
    let free := (b.hammer k.bell).state = .idle ∧ ∀ o ∈ b.bus.sendList, o.bell ≠ k.bell
    let first := ∀ j x, j < position → b.sched.queue[j]? = some x → x.bell = k.bell → x.state = .queued
    (b.sched.access = true → b.dispatchAt e position = b.removeAt position .blocked) ∧
    (b.sched.access = false → free → first → b.dispatchAt e position = b.handOff e position) ∧
    (b.sched.access = false → ¬ (free ∧ first) → b.dispatchAt e position = b) := by
  intro free first
  have test : (b.hammerFreeFor k.bell && b.firstDue k.bell position) = true ↔ free ∧ first := by
    rw [Bool.and_eq_true, Body.hammerFreeFor_iff, Body.firstDue_iff here due]
  refine ⟨Body.dispatchAt_blocked here, fun access isFree isFirst => ?_, fun access waits => ?_⟩
  · rw [Body.dispatchAt_open here access, if_pos (test.2 ⟨isFree, isFirst⟩)]
  · rw [Body.dispatchAt_open here access, if_neg (mt test.1 waits)]

/-- R67: the body whose strike at this place has become DUE. -/
theorem Body.becomeDue_eq (here : b.sched.queue[position]? = some k) :
    b.becomeDue e position = Body.dispatchAt e
      (b.setSched { b.sched with queue := b.sched.queue.set position { k with state := .due } }) position := by
  obtain ⟨bound, at_⟩ := List.getElem?_eq_some_iff.1 here
  have changed : (b.sched.queue.modify position fun x => { x with state := .due }) =
      b.sched.queue.set position { k with state := .due } := by
    rw [List.modify_eq_set_getElem? , here]
    rfl
  unfold Body.becomeDue
  rw [changed]

theorem Body.handOff_eq (here : b.sched.queue[position]? = some k) :
    let r := e.bell k.bell
    let place := r.placement.getD (0, 0)
    b.handOff e position =
      Body.takeOrder e.now
        { bell := k.bell, board := place.1, hammer := place.2, pulse := r.pulse k.force,
          band := k.band, fire := k.fire, onLine := false }
        ((b.removeAt position .fired).setHammer k.bell
          { state := .ordered, band := some k.band, send := none, expiry := none, contact := none,
            presumed := false, missBefore := none, timerEnd := none }) := by
  simp only [Body.handOff, here]
  rfl

end Dispatch

theorem exec_strikeDue {s : State} {position : Nat} {k : Strike} (free : s.rst.held = false)
    (here : s.body.sched.queue[position]? = some k) (queued : k.state = .queued) (reached : k.fire ≤ s.now) :
    exec (.strikeDue position) s = .next (s.act fun e b => b.becomeDue e position) := by
  have due : s.strikeDueAt position = true := by simp [State.strikeDueAt, here, queued, reached]
  unfold exec
  refine (State.running_free free _).trans ?_
  rw [if_pos due]

/-- R178: where an order takes its place in the send list. -/
theorem insertOrder_eq (o : Order) (l : List Order) :
    let before := fun x : Order => decide (x.fire < o.fire ∨ (x.fire = o.fire ∧ x.bell ≤ o.bell))
    insertOrder o l = l.takeWhile before ++ o :: l.dropWhile before := by
  intro before
  induction l with
  | nil => rfl
  | cons x rest ih =>
    by_cases h : x.fire < o.fire ∨ (x.fire = o.fire ∧ x.bell ≤ o.bell)
    · simp [insertOrder, before, h, ih]
    · simp [insertOrder, before, h]

theorem takeOrder_rule (now : Nat) (b : Body) (o : Order) :
    let before := fun x : Order => x.fire < o.fire ∨ (x.fire = o.fire ∧ x.bell ≤ o.bell)
    ∃ earlier later, b.bus.sendList = earlier ++ later ∧ (∀ x ∈ earlier, before x) ∧
      (∀ x ∈ later.head?, ¬ before x) ∧
      let u := b.setBus { b.bus with sendList := earlier ++ o :: later }
      (b.bus.access = true → b.takeOrder now o = u.cancelOrder o.bell .access) ∧
      (b.bus.access = false → b.takeOrder now o = u.chooseFrame now) := by
  intro before
  let test := fun x : Order => decide (before x)
  refine ⟨b.bus.sendList.takeWhile test, b.bus.sendList.dropWhile test,
    List.takeWhile_append_dropWhile.symm, fun x h => ?_, fun x h => ?_, ?_⟩
  · simpa [test] using List.mem_takeWhile_imp h
  · have head := List.head?_dropWhile_not test b.bus.sendList
    rw [Option.mem_def] at h
    rw [h] at head
    simpa [test] using head
  · intro u
    have inserted : b.setBus { b.bus with sendList := insertOrder o b.bus.sendList } = u := by
      rw [insertOrder_eq]
    unfold Body.takeOrder
    rw [inserted]
    exact ⟨fun access => if_pos access, fun access => if_neg (Bool.eq_false_iff.1 access)⟩

/-- Settles O42, by the rule of dispatch for the strike that has become DUE. -/
theorem dueStrikeIsBlockedFiredOrWaits : Obligations.DueStrikeIsBlockedFiredOrWaits := by
  refine ⟨fun s position k free here queued reached => ?_,
    fun e b position k here due => Body.dispatchAt_rule here due,
    fun e b position k here => Body.handOff_eq here, takeOrder_rule⟩
  intro queue b isFree first
  have now : b.sched.queue[position]? = some { k with state := .due } := by
    obtain ⟨bound, _⟩ := List.getElem?_eq_some_iff.1 here
    exact List.getElem?_set_self bound
  obtain ⟨blocked, fires, waits⟩ := Body.dispatchAt_rule (e := s.env) now rfl
  have taken : exec (.strikeDue position) s = .next (s.setBody (b.dispatchAt s.env position)).finish := by
    rw [exec_strikeDue free here queued reached]
    have due : s.body.becomeDue s.env position = b.dispatchAt s.env position := Body.becomeDue_eq here
    rw [← due]
    rfl
  refine ⟨fun access => ?_, fun access isFree isFirst => ?_, fun access both => ?_⟩
  · rw [taken, blocked access]
    rfl
  · rw [taken, fires access isFree isFirst]
    rfl
  · rw [taken, waits access both]
    rfl

/-! ### Admission -/

section Admission

variable (e : Env) (b : Body) (r : Request)

/-- R61: the fire instant asked for, which may lie before Run Time 0. -/
def Request.fireAsked : Int :=
  (r.sounding : Int) - (((e.bell r.bell).estimate (bandOf r.force) + 1 : Nat) : Int)

/-- R63: how far the spacing instant lies beyond a fire instant. -/
def shiftTo (spacing : Option Nat) (fire : Int) : Nat :=
  match spacing with
  | none => 0
  | some sp => ((sp : Int) - fire).toNat

/-- R63: the shift is none, or the policy allows it. -/
def Request.Spaced (shift : Nat) : Prop := shift = 0 ∨ (r.policy = .defer ∧ shift ≤ r.slack)

theorem spacingShift_spaced {spacing : Option Nat} {fire : Int} (h : r.Spaced (shiftTo spacing fire)) :
    spacingShift spacing fire r.policy r.slack = some (shiftTo spacing fire) := by
  cases spacing with
  | none => rfl
  | some sp =>
    simp only [spacingShift]
    by_cases reached : fire ≥ sp
    · rw [if_pos reached]
      simp only [shiftTo]
      congr 1
      omega
    · have shifted : shiftTo (some sp) fire ≠ 0 := by
        simp only [shiftTo]
        omega
      rw [if_neg reached]
      exact if_pos (h.resolve_left shifted)

theorem spacingShift_refused {spacing : Option Nat} {fire : Int} (h : ¬ r.Spaced (shiftTo spacing fire)) :
    spacingShift spacing fire r.policy r.slack = none := by
  obtain ⟨shifted, kept⟩ := not_or.1 h
  cases spacing with
  | none => exact absurd rfl shifted
  | some sp =>
    have before : ¬ fire ≥ sp := by
      simp only [shiftTo] at shifted
      omega
    simp only [spacingShift]
    rw [if_neg before]
    exact if_neg kept

variable {e b r}

theorem Body.step1_iff : b.step1 e r = true ↔
    (e.bell r.bell).available = true ∧ b.holder r.bell = r.player := by
  unfold Body.step1
  cases r.player <;> simp

theorem Body.hasRoom_iff {player : Option Nat} : b.hasRoom player = true ↔
    b.occupancy < 256 ∧ (player = none ∨ player = some 0 ∨
      (b.tuneTotal < 224 ∧ ∃ p ∈ player, b.queuedCount p < b.quota p)) := by
  unfold Body.hasRoom
  cases player <;> simp

/-- R60 to R66: what admission works out before it decides. -/
structure Admits (e : Env) (b : Body) (r : Request) (shift late : Nat) : Prop where
  asks     : b.step1 e r = true
  shifts   : shift = shiftTo (b.spacing e r.bell) (r.fireAsked e)
  spaced   : r.Spaced shift
  lateness : late = ((e.now : Int) - (r.fireAsked e + shift)).toNat

/-- R66: the strike that is queued. -/
def Request.strike (e : Env) (r : Request) (shift late : Nat) : Strike :=
  let bell := e.bell r.bell
  let est := bell.estimate (bandOf r.force)
  let fire := (r.fireAsked e + shift + late).toNat
  { bell := r.bell, force := r.force, band := bandOf r.force, sounding := r.sounding + shift + late,
    fire := fire, origin := r.origin, player := r.player, tunePosition := r.tunePosition,
    deferral := shift, admittedLate := late,
    clear := fire + est + bell.maskFor (bandOf r.force) + bell.recovery,
    state := if fire ≤ e.now then .due else .queued }

theorem decideAdmission_unavailable (h : ¬ b.step1 e r = true) :
    b.decideAdmission e r = (b, .refused .unavailable) :=
  if_pos (by simpa using h)

theorem decideAdmission_recovery (h : b.step1 e r = true)
    (close : ¬ r.Spaced (shiftTo (b.spacing e r.bell) (r.fireAsked e))) :
    b.decideAdmission e r = (b, .refused .recovery) := by
  have shift : spacingShift (b.spacing e r.bell)
      ((r.sounding : Int) - ((e.bell r.bell).lead (bandOf r.force) : Int)) r.policy r.slack = none :=
    spacingShift_refused r close
  unfold Body.decideAdmission
  simp only [h, shift, Bool.not_true, Bool.false_eq_true, if_false]

variable {shift late : Nat}

/-- R64 to R66: the steps after the spacing. -/
theorem decideAdmission_spaced (h : Admits e b r shift late) :
    b.decideAdmission e r =
      if b.sched.lateLimit < late then (b, .refused .late)
      else if !b.hasRoom r.player then (b.raise .queueFull, .refused .full)
      else (b.insertStrike e (r.strike e shift late),
        .admitted (r.strike e shift late).fire (r.sounding + shift + late) shift late) := by
  obtain ⟨asks, rfl, spaced, rfl⟩ := h
  have shifts : spacingShift (b.spacing e r.bell)
      ((r.sounding : Int) - ((e.bell r.bell).lead (bandOf r.force) : Int)) r.policy r.slack =
        some (shiftTo (b.spacing e r.bell) (r.fireAsked e)) :=
    spacingShift_spaced r spaced
  unfold Body.decideAdmission
  simp only [asks, shifts, Bool.not_true, Bool.false_eq_true, if_false]
  rfl

end Admission

/-! ### Insertion -/

theorem insertStrike_eq (k : Strike) (l : List Strike) : insertStrike k l =
    l.takeWhile (fun x => x.fire ≤ k.fire) ++ k :: l.dropWhile (fun x => x.fire ≤ k.fire) := by
  induction l with
  | nil => rfl
  | cons x rest ih =>
    by_cases h : x.fire ≤ k.fire
    · simp [insertStrike, h, ih]
    · simp [insertStrike, h]

/-- R66: the Scheduler with one strike more. -/
def Scheduler.inserted (c : Scheduler) (k : Strike) : Scheduler :=
  { c with queue := insertStrike k c.queue, admitted := c.admitted + 1 }

theorem Body.insertStrike_queued (e : Env) (b : Body) {k : Strike} (h : k.state = .queued) :
    b.insertStrike e k = { b with sched := b.sched.inserted k } := by
  unfold Body.insertStrike
  rw [if_neg (by simp [h])]
  rfl

theorem Body.insertStrike_due (e : Env) (b : Body) {k : Strike} (h : k.state = .due) :
    ∃ i, (b.sched.inserted k).queue[i]? = some k ∧
      b.insertStrike e k = Body.dispatchAt e { b with sched := b.sched.inserted k } i := by
  have mem : k ∈ (b.sched.inserted k).queue := (insertStrike_perm k _).mem_iff.2 List.mem_cons_self
  cases found : (b.sched.inserted k).queue.findIdx? (· == k) with
  | none =>
    have absent := List.findIdx?_eq_none_iff.1 found k mem
    simp at absent
  | some i =>
    obtain ⟨bound, same, _⟩ := List.findIdx?_eq_some_iff_getElem.1 found
    refine ⟨i, List.getElem?_eq_some_iff.2 ⟨bound, by simpa using same⟩, ?_⟩
    have here : (b.setSched (b.sched.inserted k)).sched.queue.findIdx? (· == k) = some i := found
    unfold Body.insertStrike
    rw [if_pos h]
    simp only [Scheduler.inserted] at here
    simp only [here]
    rfl

/-! ### The spacing instant -/

section Spacing

variable {e : Env} {b : Body} {bell : Nat}

theorem Body.projectedFree_none (h : ∀ k ∈ b.sched.queue, k.bell ≠ bell) : b.projectedFree bell = none := by
  have gone : (b.sched.queue.filter fun k => k.bell == bell) = [] := by
    simpa [List.filter_eq_nil_iff] using h
  unfold Body.projectedFree
  rw [gone]
  rfl

theorem Body.projectedFree_last {earlier later : List Strike} {k : Strike}
    (queue : b.sched.queue = earlier ++ k :: later) (own : k.bell = bell) (h : ∀ x ∈ later, x.bell ≠ bell) :
    b.projectedFree bell = some k.clear := by
  have gone : (later.filter fun k => k.bell == bell) = [] := by
    simpa [List.filter_eq_nil_iff] using h
  have last : (b.sched.queue.filter fun k => k.bell == bell) =
      (earlier.filter fun k => k.bell == bell) ++ [k] := by
    simp [queue, own, gone]
  unfold Body.projectedFree
  rw [last, List.getLast?_concat]
  rfl

/-- R49: the projected end by the state of the hammer. -/
theorem Body.projectedEnd_eq (e : Env) (b : Body) (bell : Nat) :
    let h := b.hammer bell
    let r := e.bell bell
    let est := r.estimate (h.band.getD .soft)
    let mask := est * r.mask / 128
    b.projectedEnd e bell = match h.state with
      | .idle => none
      | .ordered => some (e.now + 1 + est + mask + r.recovery)
      | .drive => some (max (h.send.getD 0 + est) e.now + mask + r.recovery)
      | .mask => h.timerEnd.map (· + r.recovery)
      | .settle => h.timerEnd := rfl

theorem laterOf_none_right (x : Option Nat) : laterOf x none = x := by
  cases x <;> rfl

end Spacing

/-- Settles O43, by the steps of admission, the projected end by the hammer's state, and insertion. -/
theorem admissionTakesSixSteps : Obligations.AdmissionTakesSixSteps := by
  refine ⟨fun e b r => ?_, fun e b bell => ?_,
    fun b => ⟨rfl, rfl, fun p => ⟨queuedCount_eq b p, rfl⟩⟩, insertStrike_eq, fun e b k => ?_⟩
  · intro bell band mayAsk fire0 shift spaced late room fire
    have shifts : shift = shiftTo (b.spacing e r.bell) (r.fireAsked e) := by
      simp only [shift]
      cases b.spacing e r.bell <;> rfl
    have admits (asks : mayAsk) (fits : spaced) : Admits e b r shift late :=
      ⟨Body.step1_iff.2 asks, shifts, fits, rfl⟩
    refine ⟨fun no => ?_, fun asks close => ?_, fun asks fits tooLate => ?_,
      fun asks fits inTime full => ?_, fun asks fits inTime isRoom => ?_⟩
    · exact decideAdmission_unavailable (mt Body.step1_iff.1 no)
    · exact decideAdmission_recovery (Body.step1_iff.2 asks) (shifts ▸ close)
    · rw [decideAdmission_spaced (admits asks fits), if_pos tooLate]
    · have none : ¬ b.hasRoom r.player = true := mt Body.hasRoom_iff.1 full
      rw [decideAdmission_spaced (admits asks fits), if_neg (Nat.not_lt.2 inTime), if_pos (by simpa using none)]
    · rw [decideAdmission_spaced (admits asks fits), if_neg (Nat.not_lt.2 inTime),
        if_neg (by simp [Body.hasRoom_iff.2 isRoom])]
      rfl
  · intro h r est mask
    have ends := Body.projectedEnd_eq e b bell
    refine ⟨Body.projectedFree_none, fun _ _ _ queue own rest => Body.projectedFree_last queue own rest,
      fun state => ?_, fun state => ?_, fun state x send => ?_, fun state x timer => ?_, fun state => ?_,
      fun free => ?_, fun ended => ?_, fun x y free ended => ?_⟩
    · simpa [show (b.hammer bell).state = _ from state] using ends
    · simpa [show (b.hammer bell).state = _ from state] using ends
    · simpa [show (b.hammer bell).state = _ from state, show (b.hammer bell).send = _ from send] using ends
    · simpa [show (b.hammer bell).state = _ from state, show (b.hammer bell).timerEnd = _ from timer] using ends
    · simpa [show (b.hammer bell).state = _ from state] using ends
    · simp only [Body.spacing, free, laterOf]
    · simp only [Body.spacing, ended, laterOf_none_right]
    · simp only [Body.spacing, free, ended, laterOf]
  · intro c
    have inserted : c = b.sched.inserted k := by
      simp only [c, Scheduler.inserted, insertStrike_eq]
    rw [inserted]
    exact ⟨Body.insertStrike_queued e b, Body.insertStrike_due e b⟩

end Sys2Proof.Machine
end


section
/-! SUPPORT. TEST-STRIKE (R77): an admission request that asks to fire eight eighths ahead. -/

namespace Sys2Proof.Machine

set_option Elab.async false

section TestStrike

variable {s : State} {n f : Nat}

/-- R77: the bell may be struck by the test, and nothing holds it. -/
structure State.TestAsks (s : State) (n : Nat) : Prop where
  available : (s.bell n).available = true
  access    : s.body.sched.access = false
  unheld    : s.body.holder n = none

theorem State.ownTestStrike_unavailable (h : (s.bell n).available = false ∨ s.body.sched.access = true) :
    s.ownTestStrike (n, f) = s.refuse .unavailable :=
  if_pos (by simpa using h)

theorem State.ownTestStrike_held (available : (s.bell n).available = true)
    (access : s.body.sched.access = false) (held : s.body.holder n ≠ none) :
    s.ownTestStrike (n, f) = s.refuse .inUse := by
  have isHeld : (s.body.holder n).isSome = true := Option.isSome_iff_ne_none.2 held
  unfold State.ownTestStrike
  simp only [available, access, isHeld, Bool.not_true, Bool.or_self, Bool.false_eq_true, if_false, if_true]

/-- R77: what the admission decides is answered. -/
theorem State.ownTestStrike_decided (h : s.TestAsks n) {b : Body} {x : Admission} :
    s.body.decideAdmission s.env (s.testRequest n f) = (b, x) →
    s.ownTestStrike (n, f) = match x with
      | .admitted fire sounding _ _ => (s.setBody b).finish.done (u48 fire ++ u48 sounding)
      | .refused .full => (s.setBody b).finish.refuse .noSpace
      | .refused .unavailable => (s.setBody b).finish.refuse .unavailable
      | .refused _ => (s.setBody b).finish.refuse .inUse := by
  intro decided
  unfold State.ownTestStrike
  simp only [h.available, h.access, h.unheld, decided, Bool.not_true, Bool.or_self, Bool.false_eq_true,
    if_false, Option.isSome_none] <;> rfl

theorem State.testRequest_fireAsked : (s.testRequest n f).fireAsked s.env = (s.now : Int) + 8 := by
  have bell : s.env.bell n = s.bell n := rfl
  simp only [Request.fireAsked, State.testRequest, Bell.lead, bell]
  push_cast
  omega

theorem State.testRequest_step1 (h : s.TestAsks n) : s.body.step1 s.env (s.testRequest n f) = true :=
  Body.step1_iff.2 ⟨h.available, h.unheld⟩

theorem State.testRequest_recovery (h : s.TestAsks n) {sp : Nat} (spacing : s.body.spacing s.env n = some sp)
    (close : s.now + 8 < sp) :
    s.body.decideAdmission s.env (s.testRequest n f) = (s.body, .refused .recovery) := by
  refine decideAdmission_recovery (State.testRequest_step1 h) ?_
  have shifted : shiftTo (s.body.spacing s.env n) ((s.now : Int) + 8) ≠ 0 := by
    rw [spacing]
    simp only [shiftTo]
    omega
  rw [State.testRequest_fireAsked]
  rintro (none | ⟨policy, _⟩)
  · exact shifted none
  · cases policy

/-- R77: no strike or cycle of the bell stands in the way. -/
theorem State.testRequest_admits (h : s.TestAsks n) (clear : ∀ sp ∈ s.body.spacing s.env n, sp ≤ s.now + 8) :
    Admits s.env s.body (s.testRequest n f) 0 0 where
  asks := State.testRequest_step1 h
  shifts := by
    have unshifted : shiftTo (s.body.spacing s.env n) ((s.now : Int) + 8) = 0 := by
      cases spacing : s.body.spacing s.env n with
      | none => rfl
      | some sp =>
        have := clear sp spacing
        simp only [shiftTo]
        omega
    rw [State.testRequest_fireAsked]
    exact unshifted.symm
  spaced := Or.inl rfl
  lateness := by
    have now : s.env.now = s.now := rfl
    rw [State.testRequest_fireAsked, now]
    omega

theorem State.testRequest_strike :
    let band := if f ≤ 8 then Band.soft else .loud
    let est := (s.bell n).estimate band
    (s.testRequest n f).strike s.env 0 0 =
      { bell := n, force := f, band := band, sounding := s.now + est + 9, fire := s.now + 8,
        origin := .test, player := none, tunePosition := none, deferral := 0,
        admittedLate := 0, clear := s.now + 8 + est + est * (s.bell n).mask / 128 + (s.bell n).recovery,
        state := .queued } := by
  intro band est
  have fire : ((s.testRequest n f).fireAsked s.env + (0 : Nat) + (0 : Nat)).toNat = s.now + 8 := by
    rw [State.testRequest_fireAsked]
    omega
  have ahead : ¬ s.now + 8 ≤ s.env.now := Nat.not_le.2 (Nat.lt_add_of_pos_right (by decide))
  have sounding : (s.testRequest n f).sounding + 0 + 0 = s.now + est + 9 := by
    have asked : (s.testRequest n f).sounding = s.now + (est + 1) + 8 := rfl
    omega
  simp only [Request.strike, fire, if_neg ahead, sounding]
  rfl

theorem exec_testStrike (p : List Byte) (s : State) :
    exec (.testStrike p) s = s.request p parseTestStrike State.ownTestStrike := rfl

end TestStrike

/-- Settles O44, by what admission decides on the test's request. -/
theorem testStrikeQueuesOneStrike : Obligations.TestStrikeQueuesOneStrike := by
  intro s p n f heard read r band est refused asks
  have answered : exec (.testStrike p) s = .next
      (((s.heard p).ownTestStrike (n, f)).1.respond ((s.heard p).ownTestStrike (n, f)).2) := by
    rw [exec_testStrike]
    exact State.request_heard heard read
  have tests (h : asks) : (s.heard p).TestAsks n := ⟨h.1, h.2.1, h.2.2⟩
  refine ⟨fun h => ?_, fun available access held => ?_, fun ask close => ?_, fun ask clear full => ?_,
    fun ask clear room => ?_⟩
  · simp only [refused, answered]
    rw [State.ownTestStrike_unavailable (s := s.heard p) h]
    rfl
  · simp only [refused, answered]
    rw [State.ownTestStrike_held (s := s.heard p) available access held]
    rfl
  · obtain ⟨sp, spacing, below⟩ := close
    simp only [refused, answered]
    rw [State.ownTestStrike_decided (tests ask)
      (State.testRequest_recovery (tests ask) (sp := sp) spacing below)]
    rfl
  · have noRoom : ¬ (s.heard p).body.hasRoom ((s.heard p).testRequest n f).player = true := fun h =>
      absurd (Body.hasRoom_iff.1 h).1 (Nat.not_lt.2 full)
    have decided := decideAdmission_spaced (State.testRequest_admits (f := f) (tests ask) clear)
    rw [if_neg (Nat.not_lt_zero _)] at decided
    have toFull := decided.trans (if_pos (by simpa using noRoom))
    simp only [refused, answered]
    rw [State.ownTestStrike_decided (tests ask) toFull]
    rfl
  · have isRoom : (s.heard p).body.hasRoom ((s.heard p).testRequest n f).player = true :=
      Body.hasRoom_iff.2 ⟨room, Or.inl rfl⟩
    have decided := decideAdmission_spaced (State.testRequest_admits (f := f) (tests ask) clear)
    rw [if_neg (Nat.not_lt_zero _)] at decided
    have toInsert := decided.trans (if_neg (by simpa using isRoom))
    rw [answered, State.ownTestStrike_decided (tests ask) toInsert]
    have strike := State.testRequest_strike (s := s.heard p) (n := n) (f := f)
    have inserted := (s.heard p).body.insertStrike_queued (s.heard p).env
      (k := ((s.heard p).testRequest n f).strike (s.heard p).env 0 0) (by rw [strike])
    rw [inserted, strike]
    rfl

end Sys2Proof.Machine
end


section
/-! SUPPORT. The Hammer Bus Controller's line (R177 to R182, R186, R207). -/

namespace Sys2Proof.Machine

set_option Elab.async false

/-! ### The choice of the next frame -/

section Choose

variable {now : Nat} {b : Body}

theorem Body.chooseFrame_busy (busy : b.bus.line ≠ .idle) : b.chooseFrame now = b := if_neg busy

theorem Bus.startActuate_none {u : Bus} (h : u.sendList = []) : u.startActuate now = u := by
  simp only [Bus.startActuate, h]

theorem Bus.startActuate_first {u : Bus} {o : Order} {rest : List Order} (h : u.sendList = o :: rest) :
    u.startActuate now = { u with
      line := .actuate o.bell (now + 1) false, sendList := { o with onLine := true } :: rest } := by
  simp only [Bus.startActuate, h]

theorem Body.chooseFrame_noPoll (idle : b.bus.line = .idle) (none : b.nextPoll = none) :
    b.chooseFrame now = b.setBus (b.bus.startActuate now) := by
  simp only [Body.chooseFrame, if_pos idle, none]

theorem Body.chooseFrame_poll {board : Nat} (idle : b.bus.line = .idle) (next : b.nextPoll = some board) :
    b.chooseFrame now =
      if 16 ≤ b.bus.consecutive ∨ b.bus.sendList = [] then b.setBus (b.bus.startPoll now board)
      else b.setBus (b.bus.startActuate now) := by
  simp only [Body.chooseFrame, if_pos idle, next]

theorem Body.chooseFrame_order {o : Order} {rest : List Order} (idle : b.bus.line = .idle)
    (list : b.bus.sendList = o :: rest) (turn : b.nextPoll = none ∨ b.bus.consecutive < 16) :
    b.chooseFrame now = b.setBus { b.bus with
      line := .actuate o.bell (now + 1) false, sendList := { o with onLine := true } :: rest } := by
  rw [← Bus.startActuate_first list]
  cases next : b.nextPoll with
  | none => exact Body.chooseFrame_noPoll idle next
  | some board =>
    have few : b.bus.consecutive < 16 := turn.resolve_left (by simp [next])
    rw [Body.chooseFrame_poll idle next, if_neg (by simp [list]; omega)]

/-- R181: the board asked about k places after the pointer waits for its poll. -/
def Body.waitsAt (b : Body) (k : Nat) : Bool :=
  b.bus.waitingPoll.getD ((b.bus.pointer + k) % b.port.boards) false

theorem Body.nextPoll_eq : b.nextPoll =
    ((List.range b.port.boards).find? b.waitsAt).map fun k => (b.bus.pointer + k) % b.port.boards + 1 := by
  unfold Body.nextPoll
  rw [List.find?_map]
  rfl

theorem Body.nextPoll_none : b.nextPoll = none ↔ ∀ k < b.port.boards, ¬ b.waitsAt k = true := by
  rw [Body.nextPoll_eq, Option.map_eq_none_iff, List.find?_eq_none]
  simp only [List.mem_range]

theorem Body.nextPoll_first {k : Nat} (bound : k < b.port.boards) (waits : b.waitsAt k = true)
    (before : ∀ j < k, ¬ b.waitsAt j = true) :
    b.nextPoll = some ((b.bus.pointer + k) % b.port.boards + 1) := by
  have found : (List.range b.port.boards).find? b.waitsAt = some k :=
    List.find?_range_eq_some.2 ⟨waits, List.mem_range.2 bound, fun j less => by simpa using before j less⟩
  rw [Body.nextPoll_eq, found]
  rfl

end Choose

/-! ### The characters of a frame -/

section Characters

variable {b : Body} {bell ends : Nat}

theorem Body.frameOnLine_cut (line : b.bus.line = .actuate bell ends true) : b.frameOnLine = [] := by
  simp only [Body.frameOnLine, line]
  cases b.orderOf bell <;> rfl

theorem Body.orderOf_first {earlier later : List Order} {o : Order}
    (list : b.bus.sendList = earlier ++ o :: later) (own : o.bell = bell)
    (before : ∀ x ∈ earlier, x.bell ≠ bell) : b.orderOf bell = some o := by
  have none : earlier.find? (fun x => x.bell == bell) = none := by simpa using before
  simp [Body.orderOf, list, none, own]

theorem mark_first (bytes : List Byte) :
    (bytes.mapIdx fun i x => ({ byte := x, mark := i == 0, framed := true } : BusChar)) =
      bytes.mapIdx fun i x => { byte := x, mark := decide (i = 0), framed := true } :=
  List.mapIdx_eq_mapIdx_iff.2 fun i _ => by by_cases h : i = 0 <;> simp [h]

end Characters

/-! ### Events and settings -/

theorem wordAt_u16 {x : Nat} (h : x < 65536) : wordAt (u16 x) 0 = x := by
  simp [wordAt, byteAt, u16]
  omega

theorem parseSetBus_u16 {x : Nat} (low : 16 ≤ x) (high : x ≤ 400) : parseSetBus (u16 x) = some x := by
  have word := wordAt_u16 (x := x) (by omega)
  have two : (u16 x).length = 2 := rfl
  simp [parseSetBus, word, check, low, high, two]

theorem exec_setBus (p : List Byte) (s : State) :
    exec (.setBus p) s = s.request p parseSetBus fun s x =>
      (s.setBody (s.body.setBus { s.body.bus with allowance := x })).done [] := rfl

theorem exec_pollRound {s : State} (free : s.rst.held = false) (due : s.body.bus.nextRound ≤ s.now) :
    exec .pollRound s = .next
      (s.setBody ((s.body.setBus (s.body.bus.beginRound s.body.port.boards)).chooseFrame s.now)) := by
  unfold exec
  refine (State.running_free free _).trans ?_
  rw [if_pos (by simpa [State.roundDue] using due)]

theorem exec_abortedFrameEnd {s : State} {bell ends : Nat} (free : s.rst.held = false)
    (line : s.body.bus.line = .actuate bell ends true) (ended : ends ≤ s.now) :
    exec .abortedFrameEnd s = .next (s.setBody (s.body.lineEnds s.now)) := by
  have due : s.frameEnded true = some bell := by simp [State.frameEnded, line, ended]
  unfold exec
  refine (State.running_free free _).trans ?_
  simp only [due]

theorem exec_busNoiseByte {s : State} (free : s.rst.held = false) :
    exec .busNoiseByte s = .next
      (s.setBody (s.body.setBus { s.body.bus with noise := s.body.bus.noise + 1 })) := by
  unfold exec
  exact State.running_free free _

/-- Settles O46, by the choice of a frame, the characters of a frame, and the events that lead to a choice. -/
theorem lineChoosesTheNextFrame : Obligations.LineChoosesTheNextFrame := by
  refine ⟨fun now b => ?_, fun b => ?_, fun s free => ?_⟩
  · refine ⟨Body.chooseFrame_busy, fun idle none empty => ?_, fun board idle next turn => ?_,
      fun o rest idle list turn => Body.chooseFrame_order idle list turn,
      Body.nextPoll_none, fun k bound waits before => Body.nextPoll_first bound waits before⟩
    · rw [Body.chooseFrame_noPoll idle none, Bus.startActuate_none empty]
      rfl
    · rw [Body.chooseFrame_poll idle next, if_pos turn]
      rfl
  · refine ⟨fun idle => ?_, fun board ends line => ?_, fun bell ends line => Body.frameOnLine_cut line,
      fun bell ends earlier o later line list own before => ?_⟩
    · simp only [Body.frameOnLine, idle]
    · simp only [Body.frameOnLine, line]
      exact mark_first _
    · simp only [Body.frameOnLine, line, Body.orderOf_first list own before, Bool.false_eq_true, if_false]
      exact mark_first _
  · refine ⟨exec_pollRound free, fun bell ends line ended => exec_abortedFrameEnd free line ended,
      exec_busNoiseByte free, fun x low high operating => ?_⟩
    have heard : Heard s (u16 x) := ⟨free, by simp [u16], operating⟩
    rw [exec_setBus, State.request_heard heard (parseSetBus_u16 low high)]
    rfl

end Sys2Proof.Machine
end


section
/-! SUPPORT. Poll replies (R183, R207, R208): which are valid, and what they carry. -/

namespace Sys2Proof.Machine

set_option Elab.async false

theorem check_eq_some {α : Type} {ok : Bool} {x y : α} : check ok x = some y ↔ ok = true ∧ x = y := by
  unfold check
  cases ok <;> simp

theorem byteAt_drop (l : List Byte) (n i : Nat) : byteAt (l.drop n) i = byteAt l (n + i) := by
  simp [byteAt, List.getD_eq_getElem?_getD]

/-- R207: the contact reports stand in pairs of characters. -/
theorem readReports_eq (count : Nat) (l : List Byte) (h : 2 * count ≤ l.length) :
    readReports (l.take (2 * count)) = (List.range count).map fun k =>
      (byteAt l (2 * k) / 16 % 8, 256 * (byteAt l (2 * k) % 16) + byteAt l (2 * k + 1)) := by
  induction count generalizing l with
  | zero => rfl
  | succ c ih =>
    match l, h with
    | x :: y :: rest, h =>
      have later := ih rest (by simp only [List.length_cons] at h; omega)
      have split : (x :: y :: rest).take (2 * (c + 1)) = x :: y :: rest.take (2 * c) := rfl
      rw [split, readReports, later, List.range_succ_eq_map, List.map_cons, List.map_map]
      rfl
    | [_], h => exact absurd h (by simp; omega)
    | [], h => exact absurd h (by simp)

theorem Reply.eq_iff {r : Reply} {faults : Byte} {reports : List (Nat × Nat)} {overflow : Bool} :
    ({ faults := faults, reports := reports, overflow := overflow } : Reply) = r ↔
      r.faults.toNat = faults.toNat ∧ r.overflow = overflow ∧ r.reports = reports := by
  obtain ⟨f, l, o⟩ := r
  simp only [Reply.mk.injEq, BitVec.toNat_inj]
  constructor
  · rintro ⟨rfl, rfl, rfl⟩
    exact ⟨rfl, rfl, rfl⟩
  · rintro ⟨rfl, rfl, rfl⟩
    exact ⟨rfl, rfl, rfl⟩

/-- R208: the checks of a reply, and its three fields. -/
theorem readReply_iff {n : Nat} {chars : List BusChar} {r : Reply} :
    let bytes := chars.map (·.byte)
    let count := byteAt bytes 2 % 8
    readReply n chars = some r ↔
      (∀ c ∈ chars, c.framed = true ∧ c.mark = false) ∧ byteAt bytes 0 = n ∧
      byteAt bytes 2 / 8 % 16 = 0 ∧ count ≤ 4 ∧ bytes.length = 5 + 2 * count ∧
      (∀ k < count, byteAt bytes (3 + 2 * k) < 128) ∧
      (crc16 (bytes.take (3 + 2 * count))).toNat = wordAt bytes (3 + 2 * count) ∧
      r.faults.toNat = byteAt bytes 1 ∧ r.overflow = decide (128 ≤ byteAt bytes 2) ∧
      r.reports = (List.range count).map fun k =>
        (byteAt bytes (3 + 2 * k) / 16, 256 * (byteAt bytes (3 + 2 * k) % 16) + byteAt bytes (4 + 2 * k)) := by
  intro bytes count
  have whole (size : bytes.length = 5 + 2 * count) : bytes.length - 2 = 3 + 2 * count := by omega
  have pairs (size : bytes.length = 5 + 2 * count) (high : ∀ k < count, byteAt bytes (3 + 2 * k) < 128) :
      readReports ((bytes.drop 3).take (2 * count)) = (List.range count).map fun k =>
        (byteAt bytes (3 + 2 * k) / 16,
          256 * (byteAt bytes (3 + 2 * k) % 16) + byteAt bytes (4 + 2 * k)) := by
    rw [readReports_eq count _ (by simp; omega)]
    refine List.map_congr_left fun k bound => ?_
    have small := high k (List.mem_range.1 bound)
    have next : 3 + (2 * k + 1) = 4 + 2 * k := by omega
    rw [byteAt_drop, byteAt_drop, next, Nat.mod_eq_of_lt (a := _ / 16) (by omega)]
  have five (c : Nat) : 3 + 2 * c + 2 = 5 + 2 * c := by omega
  have faults : (bytes.getD 1 0).toNat = byteAt bytes 1 := rfl
  unfold readReply
  rw [check_eq_some, Reply.eq_iff, faults]
  simp only [Bool.and_eq_true, List.all_eq_true, decide_eq_true_eq, beq_iff_eq, Bool.not_eq_true',
    List.mem_map, List.mem_range]
  constructor
  · rintro ⟨⟨⟨⟨⟨⟨⟨⟨framed, _⟩, own⟩, few⟩, zero⟩, size⟩, high⟩, crc⟩, isFaults, isOverflow, isReports⟩
    have size' : bytes.length = 5 + 2 * count := size.trans (five count)
    have high' : ∀ k < count, byteAt bytes (3 + 2 * k) < 128 := fun k bound => high _ ⟨k, bound, rfl⟩
    exact ⟨framed, own, zero, few, size', high', whole size' ▸ crc, isFaults, isOverflow,
      isReports.trans (pairs size' high')⟩
  · rintro ⟨framed, own, zero, few, size, high, crc, isFaults, isOverflow, isReports⟩
    refine ⟨⟨⟨⟨⟨⟨⟨⟨framed, ?_⟩, own⟩, few⟩, zero⟩, ?_⟩, ?_⟩, ?_⟩, isFaults, isOverflow,
      isReports.trans (pairs size high).symm⟩
    · exact Nat.le_trans (Nat.le_add_right 5 _) (Nat.le_of_eq size.symm)
    · exact size.trans (five count).symm
    · rintro _ ⟨k, bound, rfl⟩
      exact high k bound
    · rw [whole size]
      exact crc

/-! ### The bell of an output -/

/-- R20: the bell found is the first that is present and placed there. -/
theorem find?_range_iff {n : Nat} {p : Nat → Bool} {i : Nat} :
    (List.range n).find? p = some i ↔ i < n ∧ p i = true ∧ ∀ j < i, ¬ p j = true := by
  rw [List.find?_range_eq_some, List.mem_range]
  constructor
  · rintro ⟨here, bound, before⟩
    exact ⟨bound, here, fun j less => by simpa using before j less⟩
  · rintro ⟨bound, here, before⟩
    exact ⟨here, bound, fun j less => by simpa using before j less⟩

theorem State.bellAt_none {s : State} {n k : Nat} : s.bellAt n k = none ↔
    ∀ i < 56, ¬ ((s.bell i).present = true ∧ (s.bell i).placement = some (n, k)) := by
  simp [State.bellAt]

theorem State.bellAt_some {s : State} {n k i : Nat} : s.bellAt n k = some i ↔
    i < 56 ∧ ((s.bell i).present = true ∧ (s.bell i).placement = some (n, k)) ∧
      ∀ j < i, ¬ ((s.bell j).present = true ∧ (s.bell j).placement = some (n, k)) := by
  unfold State.bellAt
  rw [find?_range_iff]
  simp only [Bool.and_eq_true, beq_iff_eq]

/-! ### The window's end -/

section Window

variable {s : State} {n ends : Nat} {received : List BusChar}

theorem exec_pollWindowEnd (free : s.rst.held = false) (line : s.body.bus.line = .poll n ends)
    (ended : ends ≤ s.now) :
    let u := s.judgeWindow n received
    exec (.pollWindowEnd received) s = .next (u.finish.setBody
      (Body.chooseFrame s.now (u.finish.body.setBus { u.finish.body.bus with line := .idle }))) := by
  intro u
  have due : s.windowEnded = some n := by simp [State.windowEnded, line, ended]
  have now : u.finish.now = s.now :=
    congrArg TimeBase.runTime (outside_finish (outside_judgeWindow n received (State.Outside.refl s))).time
  unfold exec
  refine (State.running_free free _).trans ?_
  simp only [due]
  rw [← now]
  rfl

theorem State.judgeWindow_missed (bad : readReply n received = none) :
    let x := s.board n
    let y := { x with
      noReply := x.noReply + (if received = [] then 1 else 0)
      badReply := x.badReply + (if received = [] then 0 else 1)
      missedRun := min 255 (x.missedRun + 1), replyRun := 0 }
    s.judgeWindow n received =
      if x.online = true ∧ y.missedRun = 8 then (s.setBoard n y).boardOffline n else s.setBoard n y := by
  intro x y
  have judged : s.judgeWindow n received = s.missedPoll n received.isEmpty := by
    simp only [State.judgeWindow, bad]
  have counts : Board.missed (if received.isEmpty then { x with noReply := x.noReply + 1 }
      else { x with badReply := x.badReply + 1 }) = y := by
    cases received with
    | nil => simp [y, Board.missed]
    | cons _ _ => simp [y, Board.missed]
  rw [judged, ← counts]
  cases received <;> rfl

theorem State.judgeWindow_valid {r : Reply} (good : readReply n received = some r) :
    let x := s.board n
    let y := { x with
      validReplies := x.validReplies + 1, replyRun := min 255 (x.replyRun + 1), missedRun := 0 }
    let u := if x.online = false ∧ y.replyRun = 2 then (s.setBoard n y).boardOnline n else s.setBoard n y
    let v := r.reports.foldl (fun t c => t.takeReport n c.1 c.2) (u.takeFaults n r.faults)
    s.judgeWindow n received =
      if r.overflow then v.setBoard n { v.board n with overflow := (v.board n).overflow + 1 } else v := by
  intro x y u v
  have judged : s.judgeWindow n received = s.takeReply n r := by
    simp only [State.judgeWindow, good]
  have online : (if !y.online ∧ y.replyRun = 2 then (s.setBoard n y).boardOnline n else s.setBoard n y) = u := by
    simp [u, y]
  rw [judged]
  unfold State.takeReply
  simp only [show (s.board n).replied = y from rfl, online]
  rfl

end Window

/-- R28, R184: the fault indications of a reply. -/
theorem State.takeFaults_eq (s : State) (n : Nat) (faults : Byte) :
    s.takeFaults n faults = (List.range 8).foldl (fun t k =>
      match t.bellAt n k with
      | some i => t.writeBell i ((t.bell i).faultIndication (faults.getLsbD k))
      | none => t) (s.setBoard n { s.board n with faults := faults }) := rfl

/-- R184: a report of an output that no bell stands at, and of one that a bell stands at. -/
theorem State.takeReport_placed {s : State} {n hammer i : Nat} (age : Nat)
    (placed : s.bellAt n hammer = some i) :
    s.takeReport n hammer age =
      (s.setBoard n { s.board n with reports := (s.board n).reports + 1 }).contactReport i age := by
  simp only [State.takeReport, placed]

theorem State.takeReport_unplaced {s : State} {n hammer : Nat} (age : Nat) (none : s.bellAt n hammer = none) :
    s.takeReport n hammer age = s.setBoard n { s.board n with
      reports := (s.board n).reports + 1, unplacedReports := (s.board n).unplacedReports + 1 } := by
  simp only [State.takeReport, none]

end Sys2Proof.Machine
end


section
/-! SUPPORT. Board events (R29, R74, R179, R185): what they do to the bells, the queue and the send list. -/

namespace Sys2Proof.Machine

set_option Elab.async false

/-! ### One bell of a board event -/

section Step

variable (n : Nat) (online : Bool) (s : State) (i : Nat)

/-- R29: the bell is present and placed on the board. -/
def State.OnBoard : Prop :=
  (s.bell i).present = true ∧ (s.bell i).placement.any (fun x => x.1 == n) = true

/-- R29: the record of a bell whose board changes. -/
def State.flagged : Bell := { s.bell i with boardOnline := online }

/-- R29: what a board event does at one bell. -/
def State.boardStep : State :=
  if (s.bell i).present = true ∧ (s.bell i).placement.any (fun x => x.1 == n) = true
  then s.writeBell i { s.bell i with boardOnline := online } else s

theorem State.boardEvent_eq :
    s.boardEvent n online = (List.range 56).foldl (State.boardStep n online) s := by
  unfold State.boardEvent
  congr 1
  funext t j
  unfold State.boardStep
  dsimp only
  cases place : (t.bell j).placement with
  | none => simp
  | some x => simp only [Option.any_some, beq_iff_eq]

variable {n online s i}

theorem State.boardStep_on (h : s.OnBoard n i) :
    s.boardStep n online i = s.writeBell i (s.flagged online i) := if_pos h

theorem State.boardStep_off (h : ¬ s.OnBoard n i) : s.boardStep n online i = s := if_neg h

theorem State.boardStep_bell_other {j : Nat} (h : j ≠ i) : (s.boardStep n online i).bell j = s.bell j := by
  by_cases on : s.OnBoard n i
  · rw [State.boardStep_on on, State.bell_writeBell_other _ _ _ _ h]
  · rw [State.boardStep_off on]

theorem State.boardStep_length : (s.boardStep n online i).bells.length = s.bells.length := by
  by_cases on : s.OnBoard n i
  · rw [State.boardStep_on on, State.writeBell_bells, List.length_set]
  · rw [State.boardStep_off on]

/-- R29: whether a present bell may be struck once its board's state is known. -/
def Bell.mayBeWith (r : Bell) (online : Bool) : Bool :=
  r.calibrated && !r.lockout && decide (r.cause = .noFailure) && online

theorem State.flagged_mayBeStruck (present : (s.bell i).present = true) :
    (s.flagged online i).mayBeStruck = (s.bell i).mayBeWith online := by
  rw [Bell.mayBeStruck_eq]
  simp only [State.flagged, present, Bool.true_and, Bell.mayBeWith]

theorem State.boardStep_bell (bound : i < s.bells.length) (on : s.OnBoard n i) :
    (s.boardStep n online i).bell i =
      { s.bell i with boardOnline := online, available := (s.bell i).mayBeWith online } := by
  rw [State.boardStep_on on, State.bell_writeBell _ _ _ bound, State.flagged_mayBeStruck on.1]
  rfl

/-- R74, R179: the bell is on the board and its availability falls. -/
def State.falls (n : Nat) (online : Bool) (s : State) (i : Nat) : Bool :=
  (s.bell i).present && (s.bell i).available && (s.bell i).placement.any (fun x => x.1 == n) &&
    !(s.bell i).mayBeWith online

theorem State.falls_iff : s.falls n online i = true ↔
    s.OnBoard n i ∧ (s.bell i).available = true ∧ (s.bell i).mayBeWith online = false := by
  simp only [State.falls, State.OnBoard, Bool.and_eq_true, Bool.not_eq_true']
  constructor
  · rintro ⟨⟨⟨present, available⟩, placed⟩, falls⟩
    exact ⟨⟨present, placed⟩, available, falls⟩
  · rintro ⟨⟨present, placed⟩, available, falls⟩
    exact ⟨⟨⟨present, available⟩, placed⟩, falls⟩

theorem State.boardStep_falls (h : s.falls n online i = true) : ∃ p c,
    (s.boardStep n online i).body = ((s.body.takeFall i).setPort p).setCon c := by
  obtain ⟨on, available, falls⟩ := State.falls_iff.1 h
  have may : (s.flagged online i).mayBeStruck = false := (State.flagged_mayBeStruck on.1).trans falls
  have after : s.afterAvailability i (s.flagged online i) = s.body.takeFall i :=
    if_neg (by simp [may])
  rw [State.boardStep_on on, State.writeBell_body, if_neg (by simp [may, available]), after]
  exact ⟨_, _, rfl⟩

theorem State.boardStep_stays (h : s.falls n online i = false) : ∃ p c,
    (s.boardStep n online i).body = (s.body.setPort p).setCon c := by
  by_cases on : s.OnBoard n i
  · rw [State.boardStep_on on, State.writeBell_body]
    split
    · exact ⟨s.bellPort i (s.flagged online i), s.body.con, rfl⟩
    · rename_i changes
      have may : (s.flagged online i).mayBeStruck = true := by
        rw [State.flagged_mayBeStruck on.1] at changes ⊢
        cases available : (s.bell i).available with
        | false => simpa [available] using changes
        | true =>
          have not : ¬ s.falls n online i = true := by simp [h]
          simpa [on, available] using mt State.falls_iff.2 not
      have after : s.afterAvailability i (s.flagged online i) = s.body := if_pos may
      rw [after]
      exact ⟨_, _, rfl⟩
  · rw [State.boardStep_off on]
    exact ⟨s.body.port, s.body.con, rfl⟩

end Step

/-! ### The bells of a board event -/

section Bells

variable {n : Nat} {online : Bool} {s : State} {l : List Nat}

theorem foldl_boardStep_bell_other {j : Nat} (h : j ∉ l) :
    (l.foldl (State.boardStep n online) s).bell j = s.bell j := by
  induction l generalizing s with
  | nil => rfl
  | cons i rest ih =>
    obtain ⟨other, later⟩ := not_or.1 (mt List.mem_cons.2 h)
    rw [List.foldl_cons, ih later, State.boardStep_bell_other other]

theorem foldl_boardStep_bell {i : Nat} (each : l.Nodup) (mem : i ∈ l) (bound : i < s.bells.length)
    (on : s.OnBoard n i) : (l.foldl (State.boardStep n online) s).bell i =
      { s.bell i with boardOnline := online, available := (s.bell i).mayBeWith online } := by
  induction l generalizing s with
  | nil => cases mem
  | cons j rest ih =>
    obtain ⟨first, later⟩ := List.nodup_cons.1 each
    rw [List.foldl_cons]
    by_cases here : i = j
    · subst here
      rw [foldl_boardStep_bell_other first, State.boardStep_bell bound on]
    · have same : (s.boardStep n online j).bell i = s.bell i := State.boardStep_bell_other here
      rw [← same]
      refine ih later ((List.mem_cons.1 mem).resolve_left here) (by rwa [State.boardStep_length]) ?_
      rw [State.OnBoard, same]
      exact on

theorem foldl_boardStep_bell_off {i : Nat} (off : ¬ s.OnBoard n i) :
    (l.foldl (State.boardStep n online) s).bell i = s.bell i := by
  induction l generalizing s with
  | nil => rfl
  | cons j rest ih =>
    have same : (s.boardStep n online j).bell i = s.bell i := by
      by_cases here : i = j
      · subst here
        rw [State.boardStep_off off]
      · exact State.boardStep_bell_other here
    rw [List.foldl_cons, ih (by rw [State.OnBoard, same]; exact off), same]

theorem foldl_boardStep_none (off : ∀ i ∈ l, ¬ s.OnBoard n i) :
    l.foldl (State.boardStep n online) s = s := by
  induction l with
  | nil => rfl
  | cons j rest ih =>
    obtain ⟨first, later⟩ := List.forall_mem_cons.1 off
    rw [List.foldl_cons, State.boardStep_off first, ih later]

theorem State.onBoard_iff {i : Nat} : s.OnBoard n i ↔
    (s.bell i).present = true ∧ ∃ k, (s.bell i).placement = some (n, k) := by
  unfold State.OnBoard
  cases (s.bell i).placement with
  | none => simp
  | some x =>
    obtain ⟨board, hammer⟩ := x
    simp

end Bells

/-! ### The strikes and orders of a board event -/

/-- R74, R179: between two states the strikes of these bells have left the queue as UNAVAILABLE, and their orders,
this many, the send list. -/
structure State.Fell (s t : State) (p : Nat → Bool) (n : Nat) : Prop where
  sched : t.body.sched = { s.body.sched with
    queue := s.body.sched.queue.filter (fun k => !p k.bell)
    discardedUnavailable := s.body.sched.discardedUnavailable +
      BitVec.ofNat 32 (s.body.sched.queue.countP fun k => p k.bell) }
  list  : t.body.bus.sendList = s.body.bus.sendList.filter fun o => !p o.bell
  count : t.body.bus.cancelledUnavailable = s.body.bus.cancelledUnavailable + BitVec.ofNat 32 n

section Fell

variable {s t u : State} {p q : Nat → Bool} {m n : Nat}

theorem countP_or_filter {α : Type} (f g : α → Bool) (l : List α) :
    l.countP (fun x => f x || g x) = l.countP f + (l.filter fun x => !f x).countP g := by
  induction l with
  | nil => rfl
  | cons x rest ih =>
    cases hf : f x with
    | true => simp [hf, ih]; omega
    | false => cases hg : g x <;> simp [hf, hg, ih]; omega

theorem State.Fell.trans (h : State.Fell s t p m) (k : State.Fell t u q n) :
    State.Fell s u (fun i => p i || q i) (m + n) where
  sched := by
    rw [k.sched, h.sched]
    simp only [List.filter_filter, countP_or_filter, BitVec.ofNat_add, BitVec.add_assoc, Bool.not_or,
      Bool.and_comm]
  list := by
    rw [k.list, h.list]
    simp only [List.filter_filter, Bool.not_or, Bool.and_comm]
  count := by
    rw [k.count, h.count, BitVec.ofNat_add, BitVec.add_assoc]

theorem State.Fell.none (sched : t.body.sched = s.body.sched) (bus : t.body.bus = s.body.bus) :
    State.Fell s t (fun _ => false) 0 where
  sched := by simp [sched]
  list := by simp [bus]
  count := by simp [bus]

/-- R74, R179: one bell that falls. -/
theorem takeFall_fell (i : Nat) (sched : t.body.sched = (s.body.takeFall i).sched)
    (bus : t.body.bus = (s.body.takeFall i).bus) :
    State.Fell s t (· == i) (if s.body.bus.sendList.any fun o => o.bell == i then 1 else 0) where
  sched := by
    obtain ⟨u, hammers, mail, shape⟩ := s.body.takeFall_shape i
    rw [sched, shape]
    have stay : (s.body.sched.queue.filter fun k => !(k.bell == i)) =
        s.body.sched.queue.filter (fun k => k.bell ≠ i) :=
      List.filter_congr fun k _ => by by_cases h : k.bell = i <;> simp [h]
    have count : (s.body.sched.queue.countP fun k => k.bell == i) =
        s.body.sched.queue.countP fun k => k.bell = i :=
      List.countP_congr fun k _ => by simp
    rw [stay, count]
    rfl
  list := by
    rw [bus]
    by_cases listed : ∃ o ∈ s.body.bus.sendList, o.bell = i
    · rw [s.body.takeFall_ordered i listed]
      rfl
    · have none : ∀ o ∈ s.body.bus.sendList, o.bell ≠ i := fun o mem same => listed ⟨o, mem, same⟩
      rw [s.body.takeFall_unordered i none]
      exact (List.filter_eq_self.2 fun o mem => by simpa using none o mem).symm
  count := by
    rw [bus]
    by_cases listed : ∃ o ∈ s.body.bus.sendList, o.bell = i
    · rw [s.body.takeFall_ordered i listed, if_pos (by simpa using listed)]
      rfl
    · have none : ∀ o ∈ s.body.bus.sendList, o.bell ≠ i := fun o mem same => listed ⟨o, mem, same⟩
      rw [s.body.takeFall_unordered i none, if_neg (by simpa using none)]
      exact (BitVec.add_zero _).symm

end Fell

section BoardFell

variable {n : Nat} {online : Bool} {s : State}

theorem State.boardStep_fell (i : Nat) : State.Fell s (s.boardStep n online i)
    (fun j => j == i && s.falls n online i)
    (if s.falls n online i && s.body.bus.sendList.any fun o => o.bell == i then 1 else 0) := by
  cases falls : s.falls n online i with
  | true =>
    obtain ⟨p, c, body⟩ := State.boardStep_falls falls
    simp only [Bool.and_true, Bool.true_and]
    exact takeFall_fell i (by rw [body]; rfl) (by rw [body]; rfl)
  | false =>
    obtain ⟨p, c, body⟩ := State.boardStep_stays falls
    simp only [Bool.and_false, Bool.false_and, Bool.false_eq_true, if_false]
    exact State.Fell.none (by rw [body]; rfl) (by rw [body]; rfl)

/-- R74, R179: the bells of a board event that fall. -/
theorem foldl_boardStep_fell {l : List Nat} (each : l.Nodup) :
    State.Fell s (l.foldl (State.boardStep n online) s) (fun j => decide (j ∈ l) && s.falls n online j)
      (l.countP fun i => s.falls n online i && s.body.bus.sendList.any fun o => o.bell == i) := by
  induction l generalizing s with
  | nil => simpa using State.Fell.none rfl rfl
  | cons i rest ih =>
    obtain ⟨first, later⟩ := List.nodup_cons.1 each
    have one : State.Fell s (s.boardStep n online i) _ _ := State.boardStep_fell i
    have all := one.trans (ih (s := s.boardStep n online i) later)
    have apart (j : Nat) (h : j ∈ rest) : j ≠ i := fun same => first (same ▸ h)
    have same (j : Nat) (h : j ∈ rest) : (s.boardStep n online i).falls n online j = s.falls n online j := by
      simp only [State.falls, State.boardStep_bell_other (apart j h)]
    have listed (j : Nat) (h : j ∈ rest) :
        ((s.boardStep n online i).body.bus.sendList.any fun o => o.bell == j) =
          s.body.bus.sendList.any fun o => o.bell == j := by
      rw [one.list, List.any_filter]
      refine congrArg (List.any _) (funext fun o => ?_)
      by_cases own : o.bell = j
      · simp [own, apart j h]
      · simp [own]
    have bells : (fun j => j == i && s.falls n online i ||
        decide (j ∈ rest) && (s.boardStep n online i).falls n online j) =
          fun j => decide (j ∈ i :: rest) && s.falls n online j := by
      funext j
      by_cases here : j = i
      · subst here
        simp [first]
      · by_cases mem : j ∈ rest
        · simp [here, mem, same j mem]
        · simp [here, mem]
    have count : (rest.countP fun j => (s.boardStep n online i).falls n online j &&
        (s.boardStep n online i).body.bus.sendList.any fun o => o.bell == j) =
          rest.countP fun j => s.falls n online j && s.body.bus.sendList.any fun o => o.bell == j :=
      List.countP_congr fun j mem => by rw [same j mem, listed j mem]
    rw [bells, count, Nat.add_comm] at all
    rw [List.countP_cons]
    exact all

end BoardFell

end Sys2Proof.Machine
end


section
/-! SUPPORT. The end of a poll window (R183 to R185): what a board that goes OFFLINE takes from the send list, and
the window judged. -/

namespace Sys2Proof.Machine

set_option Elab.async false

/-! ### A board that goes OFFLINE -/

section Offline

variable {b : Body} {n : Nat}

theorem Bus.without_offline (u : Bus) (named : Nat → Bool) (k : Counter) :
    u.without .offline named k = { u with
      sendList := u.sendList.filter fun x => !named x.bell
      line := match u.line with
        | .actuate x ends cut => .actuate x ends (cut || named x)
        | line => line
      cancelledOffline := u.cancelledOffline + k } := by
  unfold Bus.without
  cases u.line <;> simp

/-- R178: with one order for each bell, an order's bell tells its board. -/
theorem orderBoard_of_bell (each : b.OneOrderEach) {x : Order} (mem : x ∈ b.bus.sendList) :
    (b.bus.sendList.any fun o => o.board == n && o.bell == x.bell) = decide (x.board = n) := by
  rw [Bool.eq_iff_iff, List.any_eq_true, decide_eq_true_eq]
  constructor
  · rintro ⟨o, listed, own⟩
    obtain ⟨board, bell⟩ : o.board = n ∧ o.bell = x.bell := by simpa using own
    rw [← List.inj_on_of_nodup_map each listed mem bell]
    exact board
  · intro board
    exact ⟨x, mem, by simp [board]⟩

/-- R185: the orders of one board cancelled. -/
theorem cancelBoard_eq (each : b.OneOrderEach) :
    b.cancelOrders .offline (b.bus.sendList.filter fun o => o.board == n) =
      b.relieved .offline (fun i => b.bus.sendList.any fun o => o.board == n && o.bell == i)
        (BitVec.ofNat 32 (b.bus.sendList.countP fun o => o.board = n))
        ((b.bus.sendList.filter fun o => o.board == n).reverse.flatMap fun o => b.freedBy o.bell) := by
  have sub : ((b.bus.sendList.filter fun o => o.board == n).map (·.bell)).Nodup :=
    each.sublist (List.filter_sublist.map _)
  have count : (b.bus.sendList.filter fun o => o.board == n).length =
      b.bus.sendList.countP fun o => o.board = n := by
    rw [← List.countP_eq_length_filter]
    exact List.countP_congr fun o _ => by simp
  rw [cancelOrders_relieved .offline _ sub fun o mem => ⟨o, (List.mem_filter.1 mem).1, rfl⟩, count]
  simp only [List.any_filter]

theorem cancelBoard_bus (each : b.OneOrderEach) :
    (b.cancelOrders .offline (b.bus.sendList.filter fun o => o.board == n)).bus = { b.bus with
      sendList := b.bus.sendList.filter fun o => o.board ≠ n
      line := match b.bus.line with
        | .actuate x ends cut =>
          .actuate x ends (cut || b.bus.sendList.any fun o => o.board == n && o.bell == x)
        | line => line
      cancelledOffline := b.bus.cancelledOffline +
        BitVec.ofNat 32 (b.bus.sendList.countP fun o => o.board = n) } := by
  have stay : (b.bus.sendList.filter fun x =>
      !(b.bus.sendList.any fun o => o.board == n && o.bell == x.bell)) =
        b.bus.sendList.filter fun o => o.board ≠ n :=
    List.filter_congr fun x mem => by rw [orderBoard_of_bell each mem]; simp
  rw [cancelBoard_eq each, ← stay]
  exact b.bus.without_offline (fun i => b.bus.sendList.any fun o => o.board == n && o.bell == i) _

end Offline

/-- Settles O48: the window judged, the replies that are valid, the bell of an output, and board events. -/
theorem pollWindowIsJudged : Obligations.PollWindowIsJudged := by
  refine ⟨fun s n ends received free line ended => ?window, fun _ _ _ => readReply_iff,
    fun s n k => ⟨State.bellAt_none, fun i => State.bellAt_some⟩, State.takeFaults_eq,
    fun s n online => State.boardEvent_eq n online s, fun s n online => ?bells,
    fun s n online => ?fell, fun b n each => ?offline, fun s n => ⟨rfl, rfl, fun hammer age =>
      ⟨fun i placed => State.takeReport_placed age placed, State.takeReport_unplaced age⟩⟩⟩
  case window =>
    have judged := exec_pollWindowEnd (received := received) free line ended
    refine ⟨fun bad => ?_, fun r good => ?_⟩
    · intro y
      rw [← State.judgeWindow_missed bad]
      exact judged
    · intro y u v
      rw [← State.judgeWindow_valid good]
      exact judged
  case bells =>
    intro placed
    have placed_iff (u : State) (i : Nat) : placed u i ↔ u.OnBoard n i := State.onBoard_iff.symm
    refine ⟨fun i bound bell => ⟨fun on => ?_, fun off => ?_⟩, fun u none => ?_⟩
    · rw [State.boardEvent_eq]
      exact foldl_boardStep_bell List.nodup_range (List.mem_range.2 bound) bell ((placed_iff s i).1 on)
    · rw [State.boardEvent_eq]
      exact foldl_boardStep_bell_off (mt (placed_iff s i).2 off)
    · rw [State.boardEvent_eq]
      exact foldl_boardStep_none fun i mem => mt (placed_iff u i).2 (none i (List.mem_range.1 mem))
  case fell =>
    intro falls t
    have all := foldl_boardStep_fell (n := n) (online := online) (s := s) (List.nodup_range (n := 56))
    have event : t = (List.range 56).foldl (State.boardStep n online) s := State.boardEvent_eq n online s
    rw [← event] at all
    have own : (fun j => decide (j ∈ List.range 56) && s.falls n online j) = falls := by
      funext j
      have bound : decide (j ∈ List.range 56) = decide (j < 56) := decide_eq_decide.2 List.mem_range
      rw [bound]
      simp only [falls, State.falls, Bell.mayBeWith, Bool.and_assoc]
    have count : ((List.range 56).countP fun i =>
        s.falls n online i && s.body.bus.sendList.any fun o => o.bell == i) =
          (List.range 56).countP fun i => falls i && s.body.bus.sendList.any fun o => o.bell == i := by
      refine List.countP_congr fun i mem => ?_
      rw [← own]
      simp only [mem, decide_true, Bool.true_and]
    rw [own, count] at all
    exact ⟨all.sched, all.list, all.count⟩
  case offline =>
    refine ⟨cancelBoard_bus each, ?_⟩
    rw [cancelBoard_eq each]
    rfl

end Sys2Proof.Machine
end


section
/-! SUPPORT. The Tune Store's slot commands (R125, R126, R129 to R133) and WRITE-MAP (R139, R140). -/

namespace Sys2Proof.Machine

set_option Elab.async false

/-! ### What the slot commands read -/

theorem Body.freeBlocks_sorted (b : Body) : b.freeBlocks.Pairwise (· < ·) :=
  List.pairwise_lt_range.filter _

theorem Body.mem_freeBlocks {b : Body} {k : Nat} :
    k ∈ b.freeBlocks ↔ k < 256 ∧ ∀ x ∈ b.slots, k ∉ x.blocks := by
  simp [Body.freeBlocks]

theorem Body.otherWriting_none {b : Body} {n : Nat} : b.otherWriting n = none ↔
    ∀ k < 64, ¬ (k ≠ n ∧ (b.slot k).state = .writing) := by
  simp [Body.otherWriting]

theorem Body.otherWriting_some {b : Body} {n k : Nat} : b.otherWriting n = some k ↔
    k < 64 ∧ (k ≠ n ∧ (b.slot k).state = .writing) ∧ ∀ j < k, ¬ (j ≠ n ∧ (b.slot j).state = .writing) := by
  unfold Body.otherWriting
  rw [find?_range_iff]
  simp only [Bool.and_eq_true, bne_iff_ne, beq_iff_eq]

theorem pitchSet_sorted (records : List (List Byte)) : (pitchSet records).Pairwise (· < ·) :=
  List.pairwise_lt_range.filter _

theorem mem_pitchSet {records : List (List Byte)} {k : Nat} : k ∈ pitchSet records ↔
    k < 96 ∧ ∃ r ∈ records, (noteOf r).pitch = k ∧ (noteOf r).force ≠ 0 := by
  simp [pitchSet]

/-! ### OPEN-TUNE -/

section OpenTune

variable {s : State} {p : List Byte} {o : OpenTune}

theorem exec_openTune (p : List Byte) (s : State) :
    exec (.openTune p) s = s.request p parseOpenTune State.ownOpenTune := rfl

theorem exec_openTune_refused {x : Status} (heard : Heard s p) (read : parseOpenTune p = some o)
    (refusal : s.body.openRefusal o = some x) :
    exec (.openTune p) s = .next (s.answer p (.refuse x)) := by
  have owned : (s.heard p).ownOpenTune o = (s.heard p).refuse x := by
    have same : (s.heard p).body.openRefusal o = some x := refusal
    simp only [State.ownOpenTune, same]
  rw [exec_openTune]
  exact State.request_refused heard read owned

/-- R129: the slot other than this one that is WRITING is abandoned. -/
theorem Body.openSlot_eq (b : Body) (o : OpenTune) {x : Option Nat} : b.otherWriting o.slot = x →
    b.openSlot o = Body.allocate ((match x with
      | some k => b.setSlot k Slot.emptySlot
      | none => b).setSlot o.slot Slot.emptySlot) o := by
  rintro rfl
  rfl

theorem exec_openTune_taken (heard : Heard s p) (read : parseOpenTune p = some o)
    (accepted : s.body.openRefusal o = none) :
    let b := (s.heard p).body.openSlot o
    exec (.openTune p) s = .next (((s.heard p).setBody b).respond
      { status := .ok,
        payload := u8 (b.slot o.slot).blocks.length ++ u16 b.freeBlocks.length ++
          optional u8 (s.body.otherWriting o.slot) }) := by
  intro b
  have owned : (s.heard p).ownOpenTune o = ((s.heard p).setBody b).done
      (u8 (b.slot o.slot).blocks.length ++ u16 b.freeBlocks.length ++
        optional u8 (s.body.otherWriting o.slot)) := by
    have same : (s.heard p).body.openRefusal o = none := accepted
    simp only [State.ownOpenTune, same]
    rfl
  rw [exec_openTune, State.request_heard heard read, owned]
  rfl

end OpenTune

/-! ### CLOSE-TUNE -/

section CloseTune

variable {s : State} {n : Nat} {crc : BitVec 16}

theorem exec_closeTune (p : List Byte) (s : State) :
    exec (.closeTune p) s = s.request p parseCloseTune State.ownCloseTune := rfl

theorem State.ownCloseTune_idle (state : (s.body.slot n).state ≠ .writing) :
    s.ownCloseTune (n, crc) = s.refuse .notActive := if_pos state

theorem State.ownCloseTune_short (state : (s.body.slot n).state = .writing)
    (short : (s.body.slot n).written.getD 0 < (s.body.slot n).length.getD 0) :
    s.ownCloseTune (n, crc) = s.badContent n none := by
  have writing : ¬ (s.body.slot n).state ≠ .writing := fun h => h state
  simp only [State.ownCloseTune, if_neg writing, if_pos short]

theorem State.ownCloseTune_whole (state : (s.body.slot n).state = .writing)
    (whole : (s.body.slot n).length.getD 0 ≤ (s.body.slot n).written.getD 0) :
    s.ownCloseTune (n, crc) =
      let slot := s.body.slot n
      let records := s.memory.slotRecords slot
      if s.memory.slotCrc slot = crc then
        (s.setBody (s.body.setSlot n (slot.closed records (s.memory.slotCrc slot)))).done
          (u8 (pitchSet records).length ++ u32 (totalTicks records))
      else s.badContent n (some (s.memory.slotCrc slot)) := by
  have writing : ¬ (s.body.slot n).state ≠ .writing := fun h => h state
  simp only [State.ownCloseTune, if_neg writing, if_neg (Nat.not_lt.2 whole)]

end CloseTune

/-! ### ERASE-TUNE -/

theorem exec_eraseTune (p : List Byte) (s : State) :
    exec (.eraseTune p) s = s.request p (parseByte 63) State.ownEraseTune := rfl

theorem State.ownEraseTune_used {s : State} {n : Nat} (used : 0 < (s.body.slot n).users) :
    s.ownEraseTune n = s.refuse .inUse := if_pos used

theorem State.ownEraseTune_free {s : State} {n : Nat} (free : (s.body.slot n).users = 0) :
    let b := s.body.setSlot n Slot.emptySlot
    s.ownEraseTune n = (s.setBody b).done (u16 b.freeBlocks.length) :=
  if_neg (Nat.not_lt.2 (Nat.le_of_eq free))

/-- Settles O51, by what each of the three commands checks and does. -/
theorem tuneSlotCommands : Obligations.TuneSlotCommands := by
  refine ⟨fun b => ⟨b.freeBlocks_sorted, fun _ => Body.mem_freeBlocks⟩,
    fun b n => ⟨Body.otherWriting_none, fun _ => Body.otherWriting_some⟩, fun _ _ _ => rfl, fun _ _ _ => rfl,
    fun records => ⟨pitchSet_sorted records, fun _ => mem_pitchSet⟩, fun _ _ => ⟨rfl, List.sum_cons⟩,
    fun s p o heard read => ?opens, fun s p n crc heard read => ?closes, fun s n heard bound => ?erases⟩
  case opens =>
    intro x need
    refine ⟨fun used => exec_openTune_refused heard read (if_pos used), fun free few => ?_,
      fun free enough => ?_⟩
    · refine exec_openTune_refused heard read ?_
      unfold Body.openRefusal
      rw [if_neg (Nat.not_lt.2 (Nat.le_of_eq free))]
      exact if_pos few
    · have accepted : s.body.openRefusal o = none := by
        unfold Body.openRefusal
        rw [if_neg (Nat.not_lt.2 (Nat.le_of_eq free))]
        exact if_neg (Nat.not_lt.2 enough)
      intro b b' t
      have opened : (s.heard p).body.openSlot o = t := (s.heard p).body.openSlot_eq o rfl
      rw [exec_openTune_taken heard read accepted, opened]
  case closes =>
    intro x records found abandoned
    refine ⟨fun idle => ?_, fun state short => ?_, fun state whole other => ?_, fun state whole same => ?_⟩
    · rw [exec_closeTune]
      exact State.request_refused heard read (State.ownCloseTune_idle (s := s.heard p) idle)
    · rw [exec_closeTune, State.request_heard heard read,
        State.ownCloseTune_short (s := s.heard p) state short]
      rfl
    · rw [exec_closeTune, State.request_heard heard read,
        State.ownCloseTune_whole (s := s.heard p) state whole]
      simp only [show ¬ (s.heard p).memory.slotCrc ((s.heard p).body.slot n) = crc from other, if_false]
      rfl
    · rw [exec_closeTune, State.request_heard heard read,
        State.ownCloseTune_whole (s := s.heard p) state whole]
      simp only [show (s.heard p).memory.slotCrc ((s.heard p).body.slot n) = crc from same, if_true]
      rw [same]
      rfl
  case erases =>
    intro t
    refine ⟨fun used => ?_, fun free => ?_⟩
    · rw [exec_eraseTune]
      exact State.request_refused heard (parseByte_u8 bound (by decide))
        (State.ownEraseTune_used (s := s.heard (u8 n)) used)
    · rw [exec_eraseTune, State.request_heard heard (parseByte_u8 bound (by decide)),
        State.ownEraseTune_free (s := s.heard (u8 n)) free]
      rfl

/-! ### WRITE-MAP -/

/-- R139: entries written one after another stand in place of those that were there. -/
theorem writeEntries_eq (es l : List MapEntry) (first : Nat) (h : first + es.length ≤ l.length) :
    writeEntries l first es = l.take first ++ es ++ l.drop (first + es.length) := by
  induction es generalizing l first with
  | nil => simp [writeEntries]
  | cons x rest ih =>
    have bound : first < l.length := by
      simp only [List.length_cons] at h
      omega
    have room : first + 1 + rest.length ≤ (l.set first x).length := by
      simp only [List.length_cons, List.length_set] at h ⊢
      omega
    have front : (l.set first x).take (first + 1) = l.take first ++ [x] := by
      rw [List.take_succ_eq_append_getElem (by simpa using bound), List.take_set_of_le (Nat.le_refl _),
        List.getElem_set_self]
    have back : (l.set first x).drop (first + 1 + rest.length) = l.drop (first + (rest.length + 1)) := by
      rw [List.drop_set_of_lt (by omega)]
      congr 1
      omega
    rw [writeEntries, ih _ _ room, front, back]
    simp

theorem readMapEntries_length {n : Nat} {l : List Byte} {es : List MapEntry} (size : l.length = 2 * n)
    (read : readMapEntries l = some es) : es.length = n := by
  induction n generalizing l es with
  | zero =>
    rw [List.eq_nil_of_length_eq_zero size, readMapEntries] at read
    rw [← Option.some.inj read]
    rfl
  | succ n ih =>
    match l, size, read with
    | x :: y :: rest, size, read =>
      obtain ⟨first, _, later⟩ := Option.bind_eq_some_iff.1 read
      obtain ⟨others, readLater, rfl⟩ := Option.map_eq_some_iff.1 later
      have shorter : rest.length = 2 * n := by
        simp only [List.length_cons] at size
        omega
      rw [List.length_cons, ih shorter readLater]
    | [_], size, _ => exact absurd size (by simp; omega)
    | [], size, _ => exact absurd size (by simp)

/-- R139: the entries named stand within the map. -/
theorem parseWriteMap_fits {p : List Byte} {m : MapId} {first : Nat} {es : List MapEntry}
    (read : parseWriteMap p = some (m, first, es)) : first + es.length ≤ 96 := by
  unfold parseWriteMap at read
  by_cases shape : 3 ≤ p.length ∧ byteAt p 1 ≤ 95 ∧ 1 ≤ byteAt p 2 ∧ byteAt p 2 ≤ 96 ∧
      p.length = 3 + 2 * byteAt p 2 ∧ byteAt p 1 + byteAt p 2 ≤ 96
  · rw [if_pos shape] at read
    obtain ⟨_, _, later⟩ := Option.bind_eq_some_iff.1 read
    obtain ⟨others, entries, same⟩ := Option.map_eq_some_iff.1 later
    obtain ⟨_, _, _, _, size, room⟩ := shape
    have count : others.length = byteAt p 2 :=
      readMapEntries_length (by rw [List.length_drop, size]; omega) entries
    simp only [Prod.mk.injEq] at same
    obtain ⟨_, rfl, rfl⟩ := same
    omega
  · rw [if_neg shape] at read
    cases read

theorem exec_writeMap (p : List Byte) (s : State) :
    exec (.writeMap p) s = s.request p parseWriteMap State.ownWriteMap := rfl

/-- R140: the lamps of the pitches written are computed again. -/
theorem Body.recomputeLamps_eq (e : Env) (b : Body) (which : Nat → Bool) {m : MapId} :
    b.con.settings.map = m → b.recomputeLamps e which =
      if b.con.session = .off then b
      else b.setCon { b.con with
        lamps := b.con.lamps.mapIdx fun k v =>
          if which k then (if (b.lookup e 0 m k).isSome then .held else .lost) else v } := by
  rintro rfl
  rfl

theorem State.ownWriteMap_other {s : State} {m : MapId} {first : Nat} {es : List MapEntry}
    (other : s.body.con.settings.map ≠ m) :
    s.ownWriteMap (m, first, es) = (s.setMap m (writeEntries (s.map m) first es)).done [] := by
  unfold State.ownWriteMap
  cases m <;> exact if_neg other

theorem State.ownWriteMap_console {s : State} {m : MapId} {first : Nat} {es : List MapEntry}
    (own : s.body.con.settings.map = m) :
    s.ownWriteMap (m, first, es) = ((s.setMap m (writeEntries (s.map m) first es)).act fun e b =>
      b.recomputeLamps e fun k => decide (first ≤ k ∧ k < first + es.length)).done [] := by
  unfold State.ownWriteMap
  cases m <;> exact if_pos own

/-- Settles O53. -/
theorem writeMapWritesTheEntriesNamed : Obligations.WriteMapWritesTheEntriesNamed := by
  intro s p m first es heard read old new u whole
  have entries : writeEntries ((s.heard p).map m) first es = new := by
    have same : (s.heard p).map m = old := by cases m <;> rfl
    rw [same]
    exact writeEntries_eq es old first (by rw [whole]; exact parseWriteMap_fits read)
  have written : (s.heard p).setMap m new = u := by cases m <;> rfl
  refine ⟨fun other => ?_, fun own => ?_⟩
  · rw [exec_writeMap, State.request_heard heard read, State.ownWriteMap_other (s := s.heard p) other,
      entries, written]
    rfl
  · have map : u.body.con.settings.map = m := by
      rw [← written]
      cases m <;> exact own
    rw [exec_writeMap, State.request_heard heard read, State.ownWriteMap_console (s := s.heard p) own,
      entries, written]
    simp only [State.act]
    rw [Body.recomputeLamps_eq _ _ _ map]
    simp only [decide_eq_true_eq] <;> rfl

end Sys2Proof.Machine
end


section
/-! SUPPORT. WRITE-TUNE (R126, R131, R209): the records it stores, and the bytes it leaves. -/

namespace Sys2Proof.Machine

set_option Elab.async false

/-! ### Records of three bytes -/

theorem mem_records3 (l : List Byte) : ∀ r ∈ records3 l, ∃ x y z, r = [x, y, z] := by
  induction l using records3.induct with
  | case1 x y z rest ih =>
    intro r mem
    rw [records3] at mem
    obtain rfl | later := List.mem_cons.1 mem
    · exact ⟨x, y, z, rfl⟩
    · exact ih r later
  | case2 l short =>
    intro r mem
    rw [records3] at mem
    · cases mem
    · exact short

section Records

variable {m : Memory} {blocks : List Nat}

/-- R209: three bytes written read back. -/
theorem Memory.read_writeBytes_three (a : Nat) (x y z : Byte) (canonical : Memory.wf m = true) :
    let t := m.writeBytes a [x, y, z]
    t.read a = x ∧ t.read (a + 1) = y ∧ t.read (a + 2) = z := by
  have one : Memory.wf (m.write a x) = true := Memory.wf_write a x canonical
  have two : Memory.wf ((m.write a x).write (a + 1) y) = true := Memory.wf_write (a + 1) y one
  refine ⟨?_, ?_, ?_⟩
  · rw [Memory.writeBytes, Memory.read_writeBytes_other _ (Or.inl (by omega)),
      Memory.read_write_same a x canonical]
  · rw [Memory.writeBytes, Memory.writeBytes, Memory.read_writeBytes_other _ (Or.inl (by omega)),
      Memory.read_write_same (a + 1) y one]
  · rw [Memory.writeBytes, Memory.writeBytes, Memory.writeBytes]
    exact Memory.read_write_same (a + 2) z two

/-- R126: with no block twice, two records of a slot stand apart. -/
theorem recordAddress_apart (each : blocks.Nodup) {i j : Nat} (hi : i < 64 * blocks.length)
    (hj : j < 64 * blocks.length) (other : i ≠ j) :
    recordAddress blocks i + 3 ≤ recordAddress blocks j ∨
      recordAddress blocks j + 3 ≤ recordAddress blocks i := by
  have bi : i / 64 < blocks.length := by omega
  have bj : j / 64 < blocks.length := by omega
  have apart : 64 * blocks.getD (i / 64) 0 + i % 64 ≠ 64 * blocks.getD (j / 64) 0 + j % 64 := by
    intro same
    have block : blocks.getD (i / 64) 0 = blocks.getD (j / 64) 0 := by omega
    rw [List.getD_eq_getElem _ _ bi, List.getD_eq_getElem _ _ bj] at block
    have index : i / 64 = j / 64 := (List.Nodup.getElem_inj_iff each).1 block
    rw [index] at same
    omega
  unfold recordAddress
  omega

/-- R131: bytes outside the records written stay. -/
theorem Memory.read_writeRecords_other {records : List (List Byte)} {i a : Nat}
    (three : ∀ r ∈ records, ∃ x y z, r = [x, y, z])
    (outside : ∀ j < records.length, ∀ k < 3, a ≠ recordAddress blocks (i + j) + k) :
    (m.writeRecords blocks i records).read a = m.read a := by
  induction records generalizing m i with
  | nil => rfl
  | cons r rest ih =>
    obtain ⟨⟨x, y, z, rfl⟩, threeLater⟩ := List.forall_mem_cons.1 three
    have here : a < recordAddress blocks i ∨ recordAddress blocks i + [x, y, z].length ≤ a := by
      have h0 := outside 0 (Nat.succ_pos _) 0 (by decide)
      have h1 := outside 0 (Nat.succ_pos _) 1 (by decide)
      have h2 := outside 0 (Nat.succ_pos _) 2 (by decide)
      simp only [Nat.add_zero] at h0 h1 h2
      simp only [List.length_cons, List.length_nil]
      omega
    have later : ∀ j < rest.length, ∀ k < 3, a ≠ recordAddress blocks (i + 1 + j) + k := by
      intro j bound k low
      have apart := outside (j + 1) (by simpa using bound) k low
      rwa [show i + (j + 1) = i + 1 + j by omega] at apart
    rw [Memory.writeRecords, ih threeLater later, Memory.read_writeBytes_other _ here]

/-- R131: each record written reads back at its place. -/
theorem Memory.recordBytes_writeRecords {records : List (List Byte)} {i : Nat} (canonical : Memory.wf m = true)
    (each : blocks.Nodup) (fits : i + records.length ≤ 64 * blocks.length)
    (three : ∀ r ∈ records, ∃ x y z, r = [x, y, z]) :
    ∀ j < records.length, some ((m.writeRecords blocks i records).recordBytes blocks (i + j)) = records[j]? := by
  induction records generalizing m i with
  | nil => exact fun j bound => absurd bound (Nat.not_lt_zero j)
  | cons r rest ih =>
    obtain ⟨⟨x, y, z, rfl⟩, threeLater⟩ := List.forall_mem_cons.1 three
    rw [List.length_cons] at fits
    intro j bound
    cases j with
    | zero =>
      have apart (d : Nat) (low : d < 3) : ∀ j < rest.length, ∀ k < 3,
          recordAddress blocks i + d ≠ recordAddress blocks (i + 1 + j) + k := by
        intro j bound k lowK
        have := recordAddress_apart each (i := i) (j := i + 1 + j) (by omega) (by omega) (by omega)
        omega
      have keeps (d : Nat) (low : d < 3) := Memory.read_writeRecords_other (m :=
        m.writeBytes (recordAddress blocks i) [x, y, z]) threeLater (apart d low)
      obtain ⟨first, second, third⟩ := Memory.read_writeBytes_three (recordAddress blocks i) x y z canonical
      simp only [Nat.add_zero, Memory.recordBytes, Memory.writeRecords, List.getElem?_cons_zero]
      have keepsFirst := keeps 0 (by decide)
      simp only [Nat.add_zero] at keepsFirst
      rw [keepsFirst, keeps 1 (by decide), keeps 2 (by decide), first, second, third]
    | succ j =>
      have later := ih (m := m.writeBytes (recordAddress blocks i) [x, y, z]) (i := i + 1)
        (Memory.wf_writeBytes _ _ canonical) (by omega) threeLater j (by simpa using bound)
      rw [show i + (j + 1) = i + 1 + j by omega]
      exact later

end Records

/-! ### The command -/

section WriteTune

variable {s : State} {p : List Byte} {n offset : Nat} {records : List (List Byte)}

theorem parseWriteTune_three (read : parseWriteTune p = some (n, offset, records)) :
    ∀ r ∈ records, ∃ x y z, r = [x, y, z] := by
  obtain ⟨_, same⟩ := check_eq_some.1 read
  simp only [Prod.mk.injEq] at same
  obtain ⟨_, _, rfl⟩ := same
  exact mem_records3 _

theorem exec_writeTune (p : List Byte) (s : State) :
    exec (.writeTune p) s = s.request p parseWriteTune State.ownWriteTune := rfl

theorem State.ownWriteTune_refused {x : Status} (refusal : s.body.writeRefusal n offset records.length = some x) :
    s.ownWriteTune (n, offset, records) = s.refuse x := by
  simp only [State.ownWriteTune, refusal]

theorem State.ownWriteTune_taken (accepted : s.body.writeRefusal n offset records.length = none) :
    s.ownWriteTune (n, offset, records) =
      (s.storeRecords n offset records).done (u16 (offset + records.length)) := by
  simp only [State.ownWriteTune, accepted]

end WriteTune

/-- Settles O52: the records are stored one after another, and with no block twice none overwrites another. -/
theorem writeTuneStoresOnlyItsRecords : Obligations.WriteTuneStoresOnlyItsRecords := by
  intro s p n offset records heard read x count refused
  have refuses {y : Status} (h : (s.heard p).body.writeRefusal n offset records.length = some y) :
      refused y := by
    simp only [refused, exec_writeTune]
    exact State.request_refused heard read (State.ownWriteTune_refused h)
  have three := parseWriteTune_three read
  refine ⟨fun idle => refuses (if_pos idle), fun writing other => refuses ?_,
    fun writing next beyond => refuses ?_, fun writing next fits => ?_⟩
  · exact (if_neg (not_not_intro writing)).trans (if_pos other)
  · exact (if_neg (not_not_intro writing)).trans
      ((if_neg (not_not_intro next)).trans (if_pos beyond))
  · have accepted : (s.heard p).body.writeRefusal n offset records.length = none :=
      (if_neg (not_not_intro writing)).trans
        ((if_neg (not_not_intro next)).trans (if_neg (Nat.not_lt.2 fits)))
    refine ⟨s.memory.writeRecords x.blocks offset records, ?_,
      fun a outside => Memory.read_writeRecords_other three outside,
      fun canonical each room => Memory.recordBytes_writeRecords canonical each room three⟩
    rw [exec_writeTune, State.request_heard heard read, State.ownWriteTune_taken accepted]
    rfl

end Sys2Proof.Machine
end


section
/-! SUPPORT. The Performance Calendar's commands and its occurrences (R144, R146, R155 to R158). -/

namespace Sys2Proof.Machine

set_option Elab.async false

/-! ### Next occurrences computed -/

/-- Events of one kind handed on in a free order. -/
theorem Body.sendFree_map (b : Body) (f : Nat → Msg) (l : List Nat) (each : l.Nodup) :
    ∃ (order : List Nat) (d : Nat), order.Nodup ∧ (∀ n, n ∈ order ↔ n ∈ l) ∧
      b.sendFree (l.map f) = { b with mail := order.map f ++ b.mail, draws := d } := by
  obtain ⟨told, d, perm, sent⟩ := b.sendFree_spec (l.map f)
  obtain ⟨order, rfl, reordered⟩ : Relation.Comp (fun x y => x = List.map f y) List.Perm told l := by
    rw [List.eq_map_comp_perm]
    exact perm
  exact ⟨order, d, reordered.nodup_iff.2 each, fun n => reordered.mem_iff, sent⟩

/-- R146, R198: every next occurrence computed. -/
def Body.computed (e : Env) (b : Body) : Body :=
  { b with cal := { b.cal with entries := b.cal.entries.map fun (x : Entry) =>
    { x with next := if b.port.loading then none else e.time.tower.bind x.nextOccurrence } } }

theorem Body.recomputeAll_eq (e : Env) (b : Body) : ∃ (order : List Nat) (d : Nat), order.Nodup ∧
    (∀ m, m ∈ order ↔ m < 48 ∧ (b.computed e).occurrenceDue e m = true) ∧
    b.recomputeAll e = { b.computed e with mail := order.map Msg.occurrence ++ b.mail, draws := d } := by
  obtain ⟨order, d, each, mem, sent⟩ := (b.computed e).sendFree_map .occurrence
    ((List.range 48).filter ((b.computed e).occurrenceDue e)) (List.nodup_range.filter _)
  refine ⟨order, d, each, fun m => ?_, sent⟩
  rw [mem, List.mem_filter, List.mem_range]

/-! ### The entry commands -/

section Commands

variable {s : State} {p : List Byte} {n : Nat}

theorem exec_writeEntry (p : List Byte) (s : State) :
    exec (.writeEntry p) s = s.request p parseWriteEntry State.ownWriteEntry := rfl

theorem exec_enableEntry (p : List Byte) (s : State) :
    exec (.enableEntry p) s = s.request p (parseByte 47) State.ownEnableEntry := rfl

theorem exec_disableEntry (p : List Byte) (s : State) :
    exec (.disableEntry p) s = s.request p (parseByte 47) fun s n =>
      (s.setBody (s.body.setEntry n { s.body.entry n with enabled := false, next := none })).done [] := rfl

theorem exec_clearEntry (p : List Byte) (s : State) :
    exec (.clearEntry p) s = s.request p (parseByte 47) State.ownClearEntry := rfl

theorem exec_setCalendar (p : List Byte) (s : State) :
    exec (.setCalendar p) s = s.request p parseSetCalendar fun s x =>
      (s.act fun e b =>
        ({ b with cal := { b.cal with preRoll := x.1, catchUp := x.2.1, margin := x.2.2 } }).recomputeAll
          e).done [] := rfl

theorem State.ownWriteEntry_active {enabled : Bool} {f : EntryFields} (h : (s.body.entry n).active ≠ none) :
    s.ownWriteEntry (n, enabled, f) = s.refuse .inUse :=
  if_pos (Option.isSome_iff_ne_none.2 h)

theorem State.ownWriteEntry_written {enabled : Bool} {f : EntryFields} (h : (s.body.entry n).active = none) :
    let u := s.act fun e b => (b.setEntry n { Entry.cleared with fields := some f, enabled := enabled }).recompute e n
    s.ownWriteEntry (n, enabled, f) = u.done (u.nextBytes n) :=
  if_neg (by simp [h])

theorem State.ownEnableEntry_cleared (h : (s.body.entry n).fields = none) :
    s.ownEnableEntry n = s.refuse .notActive :=
  if_pos (by simp [h])

theorem State.ownEnableEntry_written (h : (s.body.entry n).fields ≠ none) :
    let u := s.act fun e b => (b.setEntry n { b.entry n with enabled := true }).recompute e n
    s.ownEnableEntry n = u.done (u.nextBytes n) :=
  if_neg (by simpa using h)

theorem State.ownClearEntry_active (h : (s.body.entry n).active ≠ none) :
    s.ownClearEntry n = s.refuse .inUse :=
  if_pos (Option.isSome_iff_ne_none.2 h)

theorem State.ownClearEntry_idle (h : (s.body.entry n).active = none) :
    s.ownClearEntry n = (s.setBody (s.body.setEntry n Entry.cleared)).done [] :=
  if_neg (by simp [h])

end Commands

/-- Settles O54, by what each of the commands checks and does. -/
theorem entryCommands : Obligations.EntryCommands := by
  refine ⟨fun s p n enabled f heard read => ⟨fun active => ?_, fun idle => ?_⟩, fun s n heard bound => ?_,
    fun s p preRoll catchUp margin heard read => ?_,
    fun e b n => ⟨rfl, b.recomputeAll_eq e, ?_⟩⟩
  · rw [exec_writeEntry]
    exact State.request_refused heard read (State.ownWriteEntry_active (s := s.heard p) active)
  · rw [exec_writeEntry, State.request_heard heard read,
      State.ownWriteEntry_written (s := s.heard p) idle]
    rfl
  · have number : parseByte 47 (u8 n) = some n := parseByte_u8 bound (by decide)
    intro h x
    refine ⟨fun cleared => ?_, fun written => ?_, ?_, fun active => ?_, fun idle => ?_⟩
    · rw [exec_enableEntry]
      exact State.request_refused heard number (State.ownEnableEntry_cleared (s := h) cleared)
    · rw [exec_enableEntry, State.request_heard heard number, State.ownEnableEntry_written (s := h) written]
      rfl
    · rw [exec_disableEntry, State.request_heard heard number]
      rfl
    · rw [exec_clearEntry]
      exact State.request_refused heard number (State.ownClearEntry_active (s := h) active)
    · rw [exec_clearEntry, State.request_heard heard number, State.ownClearEntry_idle (s := h) idle]
      rfl
  · rw [exec_setCalendar, State.request_heard heard read]
    rfl
  · rw [Body.occurrenceDue_iff]
    constructor
    · rintro ⟨operating, g, next, w, tower, reached⟩
      exact ⟨operating, g, w, next, tower, reached⟩
    · rintro ⟨operating, g, w, next, tower, reached⟩
      exact ⟨operating, g, next, w, tower, reached⟩

/-! ### The earliest occurrence -/

/-- Of a list in order, the first member found is the least that is looked for. -/
theorem find?_least {α : Type} {f : α → Nat} {p : α → Bool} {l : List α} {x y : α}
    (sorted : l.Pairwise fun a c => f a < f c) (found : l.find? p = some x) (mem : y ∈ l) (hy : p y = true) :
    f x ≤ f y := by
  obtain ⟨_, earlier, later, rfl, before⟩ := List.find?_eq_some_iff_append.1 found
  obtain early | here := List.mem_append.1 mem
  · exact absurd hy (by simpa using before y early)
  · obtain rfl | late := List.mem_cons.1 here
    · exact Nat.le_refl _
    · have tail := (List.pairwise_append.1 sorted).2.1
      exact Nat.le_of_lt ((List.pairwise_cons.1 tail).1 y late)

section FirstAfter

variable {r : Recurrence} {t : TowerTime} {bound : Nat} {g k : Trigger}

theorem Recurrence.days_le {first d : Nat} (h : d ∈ r.days first) : d ≤ 65535 := by
  simpa using (List.mem_filter.1 h).2

theorem Recurrence.days_sorted (first : Nat) : (r.days first).Pairwise (· < ·) := by
  unfold Recurrence.days
  refine List.Pairwise.filter _ ?_
  cases r.kind with
  | once => exact List.pairwise_singleton _ _
  | daily => exact (List.pairwise_lt_range.map _ fun _ _ h => Nat.add_lt_add_left h first)
  | hourly => exact (List.pairwise_lt_range.map _ fun _ _ h => Nat.add_lt_add_left h first)

theorem Recurrence.firstAfter_candidate (h : r.firstAfter t bound = some g) :
    r.Occurs t g ∧ bound < g.full := by
  obtain ⟨d, day, on⟩ := List.mem_flatMap.1 (List.mem_of_find?_eq_some h)
  exact ⟨((r.mem_triggersOn t d g (Recurrence.days_le day)).1 on).2, by simpa using List.find?_some h⟩

/-- A whole number of weeks leads back into a week. -/
theorem weeks_back {first day : Nat} (h : first + 7 < day) :
    ∃ m, 7 * m ≤ day ∧ first + 1 ≤ day - 7 * m ∧ day - 7 * m ≤ first + 7 :=
  ⟨(day - first - 1) / 7, by omega, by omega, by omega⟩

/-- R144: an occurrence of the week and a day that are looked at, for each later one. -/
theorem Recurrence.Occurs.early (range : r.TimesInRange) (occurs : r.Occurs t k) (later : bound < k.full) :
    ∃ d ∈ r.days (bound / dayLength), ∃ k' ∈ r.triggersOn d (t.weekdayOf d),
      bound < k'.full ∧ k'.full ≤ k.full := by
  have inDay := occurs.ms_lt range
  have high := occurs.1
  have from' : bound / dayLength ≤ k.day := by
    simp only [Trigger.full, dayLength] at *
    omega
  by_cases once : r.kind = .once
  · have day : k.day = r.day := by
      have kind := occurs.2
      simp only [once] at kind
      exact kind.1
    refine ⟨k.day, ?_, k, (r.mem_triggersOn t _ k high).2 ⟨rfl, occurs⟩, later, Nat.le_refl _⟩
    simp only [Recurrence.days, once, List.mem_filter, List.mem_singleton, decide_eq_true_eq]
    exact ⟨day, high⟩
  · have listed {d : Nat} (low : bound / dayLength ≤ d) (near : d ≤ bound / dayLength + 7) (fits : d ≤ 65535) :
        d ∈ r.days (bound / dayLength) := by
      have week : r.days (bound / dayLength) =
          ((List.range 8).map (bound / dayLength + ·)).filter (· ≤ 65535) := by
        unfold Recurrence.days
        cases kind : r.kind with
        | once => exact absurd kind once
        | daily => rfl
        | hourly => rfl
      rw [week, List.mem_filter, List.mem_map]
      exact ⟨⟨d - bound / dayLength, List.mem_range.2 (by omega), by omega⟩, by simpa using fits⟩
    by_cases near : k.day ≤ bound / dayLength + 7
    · exact ⟨k.day, listed from' near high, k, (r.mem_triggersOn t _ k high).2 ⟨rfl, occurs⟩, later,
        Nat.le_refl _⟩
    · obtain ⟨weeks, back, low, near'⟩ := weeks_back (Nat.not_le.1 near)
      have weekday : (((t.weekday : Int) + (k.day - 7 * weeks : Nat) - t.day) % 7) =
          ((t.weekday : Int) + k.day - t.day) % 7 := by
        omega
      have occurs' : r.Occurs t { day := k.day - 7 * weeks, ms := k.ms } := by
        obtain ⟨_, kind⟩ := occurs
        refine ⟨Nat.le_trans (Nat.sub_le _ _) high, ?_⟩
        simp only [weekday]
        cases kind' : r.kind with
        | once => exact absurd kind' once
        | daily => simpa only [kind'] using kind
        | hourly => simpa only [kind'] using kind
      refine ⟨k.day - 7 * weeks, listed (Nat.le_of_succ_le low) near' occurs'.1, _,
        (r.mem_triggersOn t _ _ occurs'.1).2 ⟨rfl, occurs'⟩, ?_, ?_⟩
      · have start : bound < (bound / dayLength + 1) * dayLength := by
          unfold dayLength
          omega
        exact Nat.lt_of_lt_of_le start
          (Nat.le_trans (Nat.mul_le_mul_right dayLength low) (Nat.le_add_right _ _))
      · exact Nat.add_le_add_right (Nat.mul_le_mul_right dayLength (Nat.sub_le _ _)) _

theorem Recurrence.firstAfter_least (range : r.TimesInRange) (h : r.firstAfter t bound = some g)
    (occurs : r.Occurs t k) (later : bound < k.full) : g.full ≤ k.full := by
  obtain ⟨d, day, k', on, after, before⟩ := occurs.early range later
  have sorted := (r.occurrences t (r.days (bound / dayLength)) range (Recurrence.days_sorted _)
    fun d h => Recurrence.days_le h).2
  exact Nat.le_trans (find?_least sorted h (List.mem_flatMap.2 ⟨d, day, on⟩) (by simpa using after)) before

theorem Recurrence.firstAfter_none (range : r.TimesInRange) (h : r.firstAfter t bound = none)
    (occurs : r.Occurs t k) : ¬ bound < k.full := by
  intro later
  obtain ⟨d, day, k', on, after, _⟩ := occurs.early range later
  exact absurd after (by simpa using List.find?_eq_none.1 h k' (List.mem_flatMap.2 ⟨d, day, on⟩))

end FirstAfter

/-- R146: later than Tower Time and than the last fired occurrence. -/
theorem Entry.bound_lt {x : Entry} {t : TowerTime} {g : Trigger} :
    x.bound t < g.full ↔ t.full < g.full ∧ ∀ l ∈ x.lastFired, l.full < g.full := by
  unfold Entry.bound
  cases x.lastFired with
  | none => simp
  | some l => simp

theorem Entry.nextOccurrence_enabled {x : Entry} {f : EntryFields} {t : TowerTime} (fields : x.fields = some f)
    (enabled : x.enabled = true) : x.nextOccurrence t = f.recurrence.firstAfter t (x.bound t) := by
  simp only [Entry.nextOccurrence, fields, enabled, if_true]

theorem Entry.nextOccurrence_none {x : Entry} {t : TowerTime} (h : x.enabled = false ∨ x.fields = none) :
    x.nextOccurrence t = none := by
  unfold Entry.nextOccurrence
  cases fields : x.fields with
  | none => rfl
  | some f =>
    have disabled : x.enabled = false := h.resolve_right (by simp [fields])
    simp [disabled]

/-- Settles O55: within a week and a day of the bound stands an occurrence no later than any other. -/
theorem nextOccurrenceIsTheEarliest : Obligations.NextOccurrenceIsTheEarliest := by
  refine ⟨fun x t h => Entry.nextOccurrence_none h, fun x f t fields enabled => ?_⟩
  intro full candidate
  rw [Entry.nextOccurrence_enabled fields enabled]
  refine ⟨fun g found => ?_, fun range none k later => ?_⟩
  · obtain ⟨occurs, after⟩ := Recurrence.firstAfter_candidate found
    refine ⟨⟨occurs, Entry.bound_lt.1 after⟩, fun range k later => ?_⟩
    exact Recurrence.firstAfter_least range found later.1 (Entry.bound_lt.2 later.2)
  · exact Recurrence.firstAfter_none range none later.1 (Entry.bound_lt.2 later.2)

end Sys2Proof.Machine
end


section
/-! SUPPORT. Claims, launches and the ends of performances leave the Calendar as it is. -/

namespace Sys2Proof.Machine

set_option Elab.async false

theorem foldl_cal {β : Type} {f : Body → β → Body} (h : ∀ b x, (f b x).cal = b.cal) (l : List β) (b : Body) :
    (l.foldl f b).cal = b.cal := by
  induction l generalizing b with
  | nil => rfl
  | cons x rest ih => rw [List.foldl_cons, ih, h]

theorem foldl_fst_cal {β γ : Type} {f : Body × γ → β → Body × γ} (h : ∀ r x, (f r x).1.cal = r.1.cal)
    (l : List β) (r : Body × γ) : (l.foldl f r).1.cal = r.1.cal := by
  induction l generalizing r with
  | nil => rfl
  | cons x rest ih => rw [List.foldl_cons, ih, h]

theorem foldl_holding_cal (l : List Nat) (b : Body) :
    (l.foldl (fun b i => b.send (.holding i)) b).cal = b.cal :=
  foldl_cal (f := fun b i => b.send (.holding i)) (fun _ _ => rfl) l b

section Claims

variable (now : Nat) (b : Body) (p : Nat)

theorem removeAll_cal (way : Way) (cond : Strike → Bool) : (b.removeAll way cond).cal = b.cal := by
  rw [Body.removeAll_eq]
  rfl

theorem leavePerformance_cal (fate : Fate) : (b.leavePerformance p fate).cal = b.cal := by
  unfold Body.leavePerformance
  dsimp only
  split <;> rfl

theorem announceEnd_cal (fate : Fate) : (b.announceEnd p fate).cal = b.cal := by
  have raised : (if (b.player p).noticeOnEnd then b.raise .perfEnd else b).cal = b.cal := by
    split <;> rfl
  unfold Body.announceEnd
  dsimp only
  split <;> split <;> exact raised

theorem clearClaim_cal : (b.clearClaim p).1.cal = b.cal := by
  unfold Body.clearClaim
  dsimp only
  split
  · rw [foldl_holding_cal]
    rfl
  · rfl

theorem takeFrom_cal (bell : Nat) : (b.takeFrom p bell).cal = b.cal := by
  have withdrawn : (b.withdrawOnBell p bell).cal = b.cal := removeAll_cal _ _ _
  rw [← withdrawn]
  unfold Body.takeFrom
  dsimp only
  split
  · rfl
  · split <;> rfl

theorem abort_cal : (b.abort p).1.cal = b.cal := by
  unfold Body.abort
  rw [announceEnd_cal, leavePerformance_cal, clearClaim_cal]
  exact removeAll_cal _ _ _

theorem grant_cal (g : List Nat) : (b.grant now p g).1.cal = b.cal := by
  unfold Body.grant
  dsimp only
  rw [foldl_fst_cal (f := fun r h => ((r.1.abort h).1, r.2 ++ (r.1.abort h).2)) fun r h => abort_cal r.1 h]
  have tests : (g.foldl (fun b' i => if (b.holder i).isNone then b'.withdrawTest i else b') b).cal = b.cal := by
    refine foldl_cal (fun t i => ?_) g b
    split
    · exact removeAll_cal _ _ _
    · rfl
  have taken (c : Body) : (g.foldl (fun b' i => match c.holder i with
      | some h => b'.takeFrom h i
      | none => b') c).cal = c.cal := by
    refine foldl_cal (fun t i => ?_) g c
    split
    · exact takeFrom_cal _ _ _
    · rfl
  split
  · rw [foldl_holding_cal]
    exact (taken _).trans tests
  · exact (taken _).trans tests

theorem considerCandidate_cal (f : List Nat) : (Body.considerCandidate now f b p).1.cal = b.cal := by
  unfold Body.considerCandidate
  split
  · rfl
  · split
    · split
      · exact grant_cal _ _ _ _
      · rfl
    · dsimp only
      split
      · rfl
      · exact grant_cal _ _ _ _

theorem reexamine_cal (n : Nat) (f : List Nat) : (Body.reexamine now n b f).cal = b.cal := by
  induction n generalizing b f with
  | zero => rfl
  | succ n ih =>
    unfold Body.reexamine
    split
    · rfl
    · rw [ih]
      exact foldl_fst_cal (f := fun r p => ((Body.considerCandidate now f r.1 p).1,
        r.2 ++ (Body.considerCandidate now f r.1 p).2)) (fun r q => considerCandidate_cal now r.1 q f) _ _

theorem enterFree_cal (fate : Fate) : (Body.enterFree now b p fate).cal = b.cal := by
  have released (c : Body) : (Body.release now c p).cal = c.cal := by
    unfold Body.release
    split
    · rfl
    · rw [reexamine_cal, clearClaim_cal]
  unfold Body.enterFree
  rw [announceEnd_cal, released, leavePerformance_cal]

theorem makeClaim_cal (c : ClaimBody) : (Body.makeClaim now b p c).cal = b.cal := by
  have whole (t : Body) : (Body.claimWhole now t p c).cal = t.cal := by
    unfold Body.claimWhole
    dsimp only
    split
    · rw [reexamine_cal, grant_cal]
    · split
      · rfl
      · rw [enterFree_cal]
        rfl
  have partly (t : Body) : (Body.claimPartial now t p c).cal = t.cal := by
    have joined : ((c.bells.filter fun i => !t.canTake c i).foldl (fun b i => b.joinWaiting p i) t).cal = t.cal :=
      foldl_cal (f := fun b i => b.joinWaiting p i) (fun _ _ => rfl) _ _
    unfold Body.claimPartial
    dsimp only
    split
    · exact joined
    · rw [reexamine_cal, grant_cal, joined]
  unfold Body.makeClaim
  dsimp only
  split
  · rfl
  · split
    · rw [whole]
      rfl
    · rw [partly]
      rfl

theorem launch_cal (e : Env) (r : Launch) : (b.launch e r).1.cal = b.cal := by
  unfold Body.launch
  split
  · rfl
  · dsimp only
    rw [makeClaim_cal]
    split <;> rfl

end Claims

end Sys2Proof.Machine
end


section
/-! SUPPORT. The Performance Calendar's occurrences (R147 to R149): taking one, and its launch. -/

namespace Sys2Proof.Machine

set_option Elab.async false

/-! ### Entries -/

section Entries

variable {b c : Body} {n m : Nat}

theorem Body.entry_setEntry_same (x : Entry) (h : n < b.cal.entries.length) : (b.setEntry n x).entry n = x := by
  simp [Body.entry, h]

theorem Body.entry_setEntry_other (x : Entry) (h : m ≠ n) : (b.setEntry n x).entry m = b.entry m := by
  simp [Body.entry, List.getD_eq_getElem?_getD, Ne.symm h]

theorem Body.entry_congr (h : c.cal = b.cal) (n : Nat) : c.entry n = b.entry n := by
  unfold Body.entry
  rw [h]

/-- R147: the entries of `c` are those of `b` but for this one, which is `x`. -/
structure Body.Rewrites (b : Body) (n : Nat) (x : Entry) (c : Body) : Prop where
  size  : c.cal.entries.length = b.cal.entries.length
  own   : c.entry n = x
  other : ∀ m ≠ n, c.entry m = b.entry m

theorem rewrites_setEntry {d : Body} (x : Entry) (h : n < b.cal.entries.length) (same : d.cal = b.cal) :
    Body.Rewrites b n x (d.setEntry n x) where
  size := by rw [Body.setEntry_cal, same]; exact List.length_set
  own := Body.entry_setEntry_same x (same ▸ h)
  other m other := (Body.entry_setEntry_other x other).trans (Body.entry_congr same m)

theorem Body.Rewrites.trans {x y : Entry} {d : Body} (h : Body.Rewrites b n x c) (k : Body.Rewrites c n y d) :
    Body.Rewrites b n y d where
  size := k.size.trans h.size
  own := k.own
  other m other := (k.other m other).trans (h.other m other)

end Entries

/-! ### The launch of an occurrence -/

section Launching

variable {e : Env} {b : Body} {n p : Nat} {f : EntryFields} {g : Trigger} {catchUp : Bool}

/-- R148: what an occurrence asks the Player Bank to launch. -/
def Body.occurrenceLaunch (e : Env) (b : Body) (n : Nat) (f : EntryFields) (g : Trigger) (catchUp : Bool)
    (p : Nat) : Launch :=
  let a := b.anchorFor e g catchUp
  { player := p, origin := .entry n, piece := b.piece f.kind f.perf (g.ms / 3600000), anchor := some a.1,
    claimKind := f.perf.claimKind, priority := f.perf.priority, preemptive := f.perf.preemptive,
    waitLimit := f.perf.waitLimit, policy := f.perf.policy, slack := f.perf.slack, notice := f.notice,
    lateStart := a.2 }

theorem launchOccurrence_overlap (active : (b.entry n).active ≠ none) :
    b.launchOccurrence e n f g catchUp = b.setEntry n ((b.entry n).record .overlap) :=
  if_pos (Option.isSome_iff_ne_none.2 active)

theorem launchOccurrence_noPlayer (idle : (b.entry n).active = none) (named : f.player = none)
    (any : b.anyPlayer = none) :
    b.launchOccurrence e n f g catchUp = b.setEntry n ((b.entry n).record .noPlayer) := by
  unfold Body.launchOccurrence
  rw [if_neg (by simp [idle]), named, any]
  rfl

/-- R148: what the launch's result makes of the entry. -/
def Entry.launched' (x : Entry) (p : Nat) : LaunchResult → Entry
  | .accepted => { x with active := some p, launched := x.launched + 1 }
  | .noPlayer => x.record .noPlayer
  | .noTune => x.record .noTune

theorem launchOccurrence_launch (idle : (b.entry n).active = none)
    (player : f.player = some p ∨ (f.player = none ∧ b.anyPlayer = some p)) :
    let r := b.launch e (b.occurrenceLaunch e n f g catchUp p)
    b.launchOccurrence e n f g catchUp = r.1.setEntry n ((b.entry n).launched' p r.2) := by
  intro r
  have found : f.player.or b.anyPlayer = some p := by
    obtain named | ⟨any, lowest⟩ := player
    · rw [named, Option.some_or]
    · rw [any, lowest, Option.none_or]
  have same : r.1.entry n = b.entry n := Body.entry_congr (launch_cal b e _) n
  rw [← same]
  unfold Body.launchOccurrence
  rw [if_neg (by simp [idle]), found]
  show (match r.2 with
    | .accepted => r.1.setEntry n { r.1.entry n with active := some p, launched := (r.1.entry n).launched + 1 }
    | .noPlayer => r.1.setEntry n ((r.1.entry n).record .noPlayer)
    | .noTune => r.1.setEntry n ((r.1.entry n).record .noTune)) = _
  cases r.2 <;> rfl

theorem launch_noPlayer {r : Launch} (busy : (b.player r.player).state ≠ .free) :
    b.launch e r = (b, .noPlayer) := by
  have refusal : b.launchRefusal r = some .noPlayer := if_pos busy
  simp only [Body.launch, refusal]

theorem launchRefusal_free {r : Launch} (free : (b.player r.player).state = .free) :
    b.launchRefusal r = match r.piece with
      | .tune slot _ _ _ _ _ => if (b.slot slot).state ≠ .ready then some .noTune else none
      | _ => none :=
  if_neg (not_not_intro free)

theorem launchOccurrence_result (free : (b.player p).state = .free) :
    (b.launch e (b.occurrenceLaunch e n f g catchUp p)).2 =
      if f.kind = .tune ∧ (b.slot f.perf.slot).state ≠ .ready then .noTune else .accepted := by
  have refusal : b.launchRefusal (b.occurrenceLaunch e n f g catchUp p) =
      if f.kind = .tune ∧ (b.slot f.perf.slot).state ≠ .ready then some .noTune else none := by
    rw [launchRefusal_free (r := b.occurrenceLaunch e n f g catchUp p) free]
    simp only [Body.occurrenceLaunch, Body.piece]
    cases f.kind <;> simp
  unfold Body.launch
  rw [refusal]
  split <;> simp_all

end Launching

/-! ### Taking an occurrence -/

section Taking

variable {e : Env} {b : Body} {n p : Nat} {f : EntryFields} {g : Trigger} {catchUp : Bool}

/-- R147, step 1: the body whose entry records this trigger as the last one fired. -/
def Body.firing (b : Body) (n : Nat) (g : Trigger) : Body :=
  b.setEntry n { b.entry n with lastFired := some g }

theorem takeOccurrence_eq : (b.entry n).fields = some f →
    let u := (b.firing n g).launchOccurrence e n f g catchUp
    let v := if f.recurrence.kind = .once then u.setEntry n { u.entry n with enabled := false } else u
    b.takeOccurrence e n g catchUp = v.recompute e n := by
  intro fields
  unfold Body.takeOccurrence
  generalize (b.entry n).fields = o at fields ⊢
  subst fields
  rfl

theorem recompute_rewrites {v : Body} (h : n < v.cal.entries.length) :
    Body.Rewrites v n { v.entry n with next := ((v.recompute e n).entry n).next } (v.recompute e n) := by
  have written := rewrites_setEntry (d := v) { v.entry n with next := v.nextOf e (v.entry n) } h rfl
  have sent : Body.Rewrites v n { v.entry n with next := v.nextOf e (v.entry n) } (v.recompute e n) := by
    unfold Body.recompute
    dsimp only
    split
    · exact ⟨written.size, written.own, written.other⟩
    · exact written
  have next : ((v.recompute e n).entry n).next = v.nextOf e (v.entry n) := by rw [sent.own]
  rw [next]
  exact sent

/-- R147: an occurrence rewrites its own entry: the launch's part of it is `z`. -/
theorem takeOccurrence_rewrites (bound : n < b.cal.entries.length) (fields : (b.entry n).fields = some f)
    {z : Entry} (launched : Body.Rewrites b n z ((b.firing n g).launchOccurrence e n f g catchUp)) :
    let t := b.takeOccurrence e n g catchUp
    Body.Rewrites b n
      { z with next := (t.entry n).next
               enabled := z.enabled && decide (f.recurrence.kind ≠ RecurrenceKind.once) } t := by
  intro t
  have taken : t = _ := takeOccurrence_eq fields
  let u := (b.firing n g).launchOccurrence e n f g catchUp
  have once : Body.Rewrites b n
      { z with enabled := z.enabled && decide (f.recurrence.kind ≠ RecurrenceKind.once) }
      (if f.recurrence.kind = .once then u.setEntry n { u.entry n with enabled := false } else u) := by
    by_cases kind : f.recurrence.kind = .once
    · have disabled := launched.trans (rewrites_setEntry (d := u) { u.entry n with enabled := false }
        (by rw [launched.size]; exact bound) rfl)
      have off : (z.enabled && decide (f.recurrence.kind ≠ RecurrenceKind.once)) = false := by simp [kind]
      rw [off, if_pos kind, ← launched.own]
      exact disabled
    · have kept : (z.enabled && decide (f.recurrence.kind ≠ RecurrenceKind.once)) = z.enabled := by simp [kind]
      rw [kept, if_neg kind]
      exact launched
  have computed := once.trans (recompute_rewrites (e := e) (by rw [once.size]; exact bound))
  rw [once.own] at computed
  rw [taken]
  exact computed

theorem firing_rewrites (bound : n < b.cal.entries.length) :
    Body.Rewrites b n { b.entry n with lastFired := some g } (b.firing n g) :=
  rewrites_setEntry _ bound rfl

theorem launched_rewrites (bound : n < b.cal.entries.length) {d : Body} {x : Entry}
    (same : d.cal = (b.firing n g).cal) : Body.Rewrites b n x (d.setEntry n x) :=
  (firing_rewrites bound).trans
    (rewrites_setEntry x (by rw [(firing_rewrites bound).size]; exact bound) same)

/-- R148: whatever becomes of a launch, it rewrites its own entry alone. -/
theorem launchOccurrence_rewrites (bound : n < b.cal.entries.length) :
    ∃ z, Body.Rewrites b n z ((b.firing n g).launchOccurrence e n f g catchUp) := by
  by_cases active : ((b.firing n g).entry n).active = none
  · cases found : f.player.or (b.firing n g).anyPlayer with
    | none =>
      obtain ⟨named, any⟩ := Option.or_eq_none_iff.1 found
      exact ⟨_, by rw [launchOccurrence_noPlayer active named any]; exact launched_rewrites bound rfl⟩
    | some p =>
      have player := Option.or_eq_some_iff.1 found
      exact ⟨_, by
        rw [launchOccurrence_launch active player]
        exact launched_rewrites bound (launch_cal _ _ _)⟩
  · exact ⟨_, by rw [launchOccurrence_overlap active]; exact launched_rewrites bound rfl⟩

/-- R147, R148: what becomes of the entry whose occurrence is taken, and of the others. -/
theorem takeOccurrence_entry (bound : n < b.cal.entries.length) (fields : (b.entry n).fields = some f) :
    let t := b.takeOccurrence e n g catchUp
    let x : Entry := { b.entry n with
      lastFired := some g, next := (t.entry n).next
      enabled := (b.entry n).enabled && decide (f.recurrence.kind ≠ RecurrenceKind.once) }
    (∀ m ≠ n, t.entry m = b.entry m) ∧
    (x.active ≠ none →
      t.entry n = { x with lastOutcome := some .overlap, overlap := x.overlap + 1 }) ∧
    (x.active = none → f.player = none → b.anyPlayer = none →
      t.entry n = { x with lastOutcome := some .noPlayer, refused := x.refused + 1 }) ∧
    ∀ p, x.active = none → f.player = some p ∨ (f.player = none ∧ b.anyPlayer = some p) →
      ((b.player p).state ≠ .free →
        t.entry n = { x with lastOutcome := some .noPlayer, refused := x.refused + 1 }) ∧
      ((b.player p).state = .free → f.kind = .tune → (b.slot f.perf.slot).state ≠ .ready →
        t.entry n = { x with lastOutcome := some .noTune, refused := x.refused + 1 }) ∧
      ((b.player p).state = .free → f.kind = .toll ∨ (b.slot f.perf.slot).state = .ready →
        t.entry n = { x with active := some p, launched := x.launched + 1 }) := by
  intro t x
  have own := (firing_rewrites (g := g) bound).own
  have idleNow (idle : x.active = none) : ((b.firing n g).entry n).active = none := by
    rw [own]
    exact idle
  have overlaps (active : x.active ≠ none) := launchOccurrence_overlap (e := e) (b := b.firing n g) (n := n)
    (f := f) (g := g) (catchUp := catchUp) (by rw [own]; exact active)
  have refuses (idle : x.active = none) (named : f.player = none) (any : b.anyPlayer = none) :=
    launchOccurrence_noPlayer (e := e) (b := b.firing n g) (n := n) (g := g) (catchUp := catchUp)
      (idleNow idle) named any
  have launches (p : Nat) (idle : x.active = none)
      (player : f.player = some p ∨ (f.player = none ∧ b.anyPlayer = some p)) :=
    launchOccurrence_launch (e := e) (b := b.firing n g) (n := n) (g := g) (catchUp := catchUp)
      (idleNow idle) player
  refine ⟨?_, fun active => ?_, fun idle named any => ?_, fun p idle player => ⟨fun busy => ?_,
    fun free kind missing => ?_, fun free ready => ?_⟩⟩
  · obtain ⟨z, launched⟩ := launchOccurrence_rewrites (e := e) (f := f) (g := g) (catchUp := catchUp) bound
    exact (takeOccurrence_rewrites bound fields launched).other
  · have rewrites := takeOccurrence_rewrites (e := e) (catchUp := catchUp) bound fields
      (by rw [overlaps active]; exact launched_rewrites bound rfl)
    rw [rewrites.own, own]
    rfl
  · have rewrites := takeOccurrence_rewrites (e := e) (catchUp := catchUp) bound fields
      (by rw [refuses idle named any]; exact launched_rewrites bound rfl)
    rw [rewrites.own, own]
    rfl
  all_goals
    have rewrites := takeOccurrence_rewrites (e := e) (catchUp := catchUp) bound fields
      (by rw [launches p idle player]; exact launched_rewrites bound (launch_cal _ _ _))
    rw [rewrites.own, own]
  · rw [launch_noPlayer (b := b.firing n g) (r := (b.firing n g).occurrenceLaunch e n f g catchUp p) busy]
    rfl
  · rw [launchOccurrence_result (b := b.firing n g) free, if_pos ⟨kind, missing⟩]
    rfl
  · rw [launchOccurrence_result (b := b.firing n g) free, if_neg]
    · rfl
    · rintro ⟨kind, missing⟩
      exact ready.elim (fun toll => by simp [kind] at toll) missing

end Taking

end Sys2Proof.Machine
end


section
/-! SUPPORT. The Performance Calendar at a change of time, and its anchors (R148, R150 to R153). -/

namespace Sys2Proof.Machine

set_option Elab.async false

/-! ### Occurrences skipped by a forward step -/

section Skipped

variable {b : Body} {before after : TowerTime} {x : Entry} {f : EntryFields}

/-- R151: the days on which a forward step looks for skipped occurrences. -/
def Recurrence.stepDays (r : Recurrence) (lo hi : Nat) : List Nat :=
  (match r.kind with
    | .once => [r.day]
    | _ => (List.range (hi / dayLength + 1 - lo / dayLength)).map (lo / dayLength + ·)).filter (· ≤ 65535)

theorem stepDays_sorted (r : Recurrence) (lo hi : Nat) : (r.stepDays lo hi).Pairwise (· < ·) := by
  have consecutive := (List.pairwise_lt_range (n := hi / dayLength + 1 - lo / dayLength)).map
    (lo / dayLength + ·) fun i j (h : i < j) => Nat.add_lt_add_left h _
  refine List.Pairwise.filter _ ?_
  cases r.kind
  · exact List.pairwise_singleton _ _
  · exact consecutive
  · exact consecutive

/-- An occurrence within the step lies on one of the days looked at. -/
theorem mem_stepDays {r : Recurrence} {t : TowerTime} {g : Trigger} {lo hi : Nat} (range : r.TimesInRange)
    (occurs : r.Occurs t g) (later : lo < g.full) (reached : g.full ≤ hi) : g.day ∈ r.stepDays lo hi := by
  have early := occurs.ms_lt range
  have consecutive : g.day ∈ (List.range (hi / dayLength + 1 - lo / dayLength)).map (lo / dayLength + ·) := by
    simp only [List.mem_map, List.mem_range]
    simp only [Trigger.full, dayLength] at *
    exact ⟨g.day - lo / 86400000, by omega, by omega⟩
  obtain ⟨bounded, on⟩ := occurs
  refine List.mem_filter.2 ⟨?_, decide_eq_true bounded⟩
  cases kind : r.kind with
  | once =>
    rw [kind] at on
    exact List.mem_singleton.2 on.1
  | daily => exact consecutive
  | hourly => exact consecutive

theorem skipped_disabled (h : x.fields = none ∨ x.enabled = false) : b.skipped before after x = [] := by
  unfold Body.skipped
  obtain cleared | disabled := h
  · rw [cleared]
  · cases x.fields
    · rfl
    · simp [disabled]

theorem skipped_enabled (fields : x.fields = some f) (enabled : x.enabled = true) :
    b.skipped before after x =
      ((f.recurrence.stepDays (before.full + b.cal.preRoll) (after.full + b.cal.preRoll)).flatMap fun d =>
        f.recurrence.triggersOn d (after.weekdayOf d)).filter fun g =>
          decide (before.full + b.cal.preRoll < g.full ∧ g.full ≤ after.full + b.cal.preRoll ∧
            ∀ l ∈ x.lastFired, l.full < g.full) := by
  unfold Body.skipped
  rw [fields]
  dsimp only
  rw [if_neg (by simp [enabled])]
  unfold Recurrence.stepDays
  cases f.recurrence.kind <;> rfl

theorem skipped_sorted (fields : x.fields = some f) (enabled : x.enabled = true)
    (range : f.recurrence.TimesInRange) :
    (b.skipped before after x).Pairwise fun g k => g.full < k.full := by
  rw [skipped_enabled fields enabled]
  exact (f.recurrence.occurrences after _ range (stepDays_sorted _ _ _)
    fun d h => by simpa using (List.mem_filter.1 h).2).2.filter _

theorem mem_skipped (fields : x.fields = some f) (enabled : x.enabled = true)
    (range : f.recurrence.TimesInRange) {g : Trigger} :
    g ∈ b.skipped before after x ↔ f.recurrence.Occurs after g ∧
      before.full + b.cal.preRoll < g.full ∧ g.full ≤ after.full + b.cal.preRoll ∧
      ∀ l ∈ x.lastFired, l.full < g.full := by
  have candidates := (f.recurrence.occurrences after _ range
    (stepDays_sorted f.recurrence (before.full + b.cal.preRoll) (after.full + b.cal.preRoll))
    fun d h => by simpa using (List.mem_filter.1 h).2).1 g
  rw [skipped_enabled fields enabled, List.mem_filter, candidates, decide_eq_true_eq]
  constructor
  · rintro ⟨⟨_, occurs⟩, later, reached, fired⟩
    exact ⟨occurs, later, reached, fired⟩
  · rintro ⟨occurs, later, reached, fired⟩
    exact ⟨⟨mem_stepDays range occurs later reached, occurs⟩, later, reached, fired⟩

/-- R151: skipped occurrences are counted, and the last of them is the last one fired. -/
theorem Entry.miss_eq (x : Entry) (gs : List Trigger) : x.miss gs =
    { x with
      lastOutcome := if gs = [] then x.lastOutcome else some .missed
      missed := x.missed + BitVec.ofNat 32 gs.length
      lastFired := if gs = [] then x.lastFired else gs.getLast? } := by
  induction gs using List.reverseRecOn with
  | nil => simp [Entry.miss]
  | append_singleton gs g ih =>
    have step : x.miss (gs ++ [g]) = { (x.miss gs).record .missed with lastFired := some g } := by
      simp only [Entry.miss, List.foldl_append, List.foldl_cons, List.foldl_nil]
    rw [step, ih]
    simp [Entry.record, BitVec.ofNat_add, BitVec.add_assoc]

end Skipped

/-! ### A forward step -/

section Forward

variable {b : Body} {before after : TowerTime} {e : Env}

/-- R152: the step is within the catch-up limit. -/
abbrev Body.Within (b : Body) (before after : TowerTime) : Prop := after.full - before.full ≤ b.cal.catchUp * 1000

/-- R151, R152: the occurrences of an entry that are recorded MISSED. -/
def Body.recordedMissed (b : Body) (before after : TowerTime) (x : Entry) : Entry :=
  x.miss (if b.Within before after then (b.skipped before after x).dropLast else b.skipped before after x)

/-- R151: the entries recorded and their next occurrences computed. -/
def Body.steppedOver (e : Env) (b : Body) (before after : TowerTime) : Body :=
  { b with cal := { b.cal with entries := b.cal.entries.map fun (x : Entry) =>
    { b.recordedMissed before after x with
        next := if b.port.loading then none
                else e.time.tower.bind (b.recordedMissed before after x).nextOccurrence } } }

/-- R151: a step that skips an occurrence raises CALENDAR MISSED. -/
def Body.stepWarned (e : Env) (b : Body) (before after : TowerTime) : Body :=
  if ∀ n ∈ List.range 48, b.skipped before after (b.entry n) = [] then b.steppedOver e before after
  else (b.steppedOver e before after).raise .calendarMissed

/-- R151: the entries with a skipped occurrence. -/
def Body.skippedEntries (b : Body) (before after : TowerTime) : List Nat :=
  (List.range 48).filter fun n => !(b.skipped before after (b.entry n)).isEmpty

/-- R152: the occurrences taken late. -/
def Body.lateOccurrences (b : Body) (before after : TowerTime) : List (Nat × Trigger) :=
  if b.Within before after then (b.skippedEntries before after).filterMap fun n =>
    ((b.skipped before after (b.entry n)).getLast?).map fun g => (n, g)
  else []

/-- R147: the entries of a body whose next occurrence is due, but for those with one taken late. -/
def Body.dueBeside (e : Env) (b : Body) (late : List (Nat × Trigger)) : List Nat :=
  (List.range 48).filter fun n => b.occurrenceDue e n && !late.any (fun l => l.1 == n)

theorem skippedEntries_empty : (b.skippedEntries before after).isEmpty = true ↔
    ∀ n ∈ List.range 48, b.skipped before after (b.entry n) = [] := by
  simp [Body.skippedEntries]

theorem forwardStep_eq : b.forwardStep e before after =
    (b.stepWarned e before after).sendFree
      (((b.stepWarned e before after).dueBeside e (b.lateOccurrences before after)).map Msg.occurrence ++
        (b.lateOccurrences before after).map fun l => Msg.caughtUp l.1 l.2) := by
  have warned : b.stepWarned e before after =
      if (b.skippedEntries before after).isEmpty then b.steppedOver e before after
      else (b.steppedOver e before after).raise .calendarMissed :=
    if_congr skippedEntries_empty.symm rfl rfl
  rw [warned]
  unfold Body.forwardStep Body.lateOccurrences Body.steppedOver Body.recordedMissed
  by_cases within : b.Within before after
  · simp only [within, decide_true, if_true, Bool.not_true, Bool.false_eq_true, if_false]
    rfl
  · simp only [within, decide_false, if_true, Bool.not_false, Bool.false_eq_true, if_false]
    rfl

theorem mem_lateOccurrences {n : Nat} {g : Trigger} : (n, g) ∈ b.lateOccurrences before after ↔
    n < 48 ∧ b.Within before after ∧ (b.skipped before after (b.entry n)).getLast? = some g := by
  unfold Body.lateOccurrences
  split
  next within =>
    simp only [List.mem_filterMap, Body.skippedEntries, List.mem_filter, List.mem_range, Option.map_eq_some_iff,
      Prod.mk.injEq]
    constructor
    · rintro ⟨_, ⟨bound, _⟩, _, last, rfl, rfl⟩
      exact ⟨bound, within, last⟩
    · rintro ⟨bound, _, last⟩
      have skips : b.skipped before after (b.entry n) ≠ [] := by
        intro none
        simp [none] at last
      exact ⟨n, ⟨bound, by simpa using skips⟩, g, last, rfl, rfl⟩
  next beyond => simp [beyond]

theorem lateOccurrences_any {n : Nat} (bound : n < 48) :
    (b.lateOccurrences before after).any (fun l => l.1 == n) = true ↔
      b.Within before after ∧ b.skipped before after (b.entry n) ≠ [] := by
  simp only [List.any_eq_true, beq_iff_eq, Prod.exists]
  constructor
  · rintro ⟨_, g, late, rfl⟩
    obtain ⟨_, within, last⟩ := mem_lateOccurrences.1 late
    refine ⟨within, fun none => ?_⟩
    simp [none] at last
  · rintro ⟨within, skips⟩
    exact ⟨n, _, mem_lateOccurrences.2 ⟨bound, within, List.getLast?_eq_some_getLast skips⟩, rfl⟩

theorem mem_dueBeside {v : Body} {n : Nat} :
    n ∈ v.dueBeside e (b.lateOccurrences before after) ↔ n < 48 ∧ v.occurrenceDue e n = true ∧
      ¬ (b.Within before after ∧ b.skipped before after (b.entry n) ≠ []) := by
  rw [Body.dueBeside, List.mem_filter, List.mem_range]
  refine and_congr_right fun bound => ?_
  rw [Bool.and_eq_true, Bool.not_eq_true', ← Bool.not_eq_true, lateOccurrences_any bound]

theorem stepWarned_mail : (b.stepWarned e before after).mail = b.mail := by
  unfold Body.stepWarned
  split <;> rfl

theorem lateOccurrences_nodup : ((b.lateOccurrences before after).map fun l => Msg.caughtUp l.1 l.2).Nodup := by
  refine List.Nodup.map (fun l m same => ?_) ?_
  · obtain ⟨first, second⟩ := Msg.caughtUp.inj same
    exact Prod.ext first second
  · unfold Body.lateOccurrences
    split
    · refine (List.nodup_range.filter _).filterMap fun n m l first second => ?_
      simp only [Option.mem_def, Option.map_eq_some_iff] at first second
      obtain ⟨_, _, rfl⟩ := first
      obtain ⟨_, _, same⟩ := second
      exact (congrArg Prod.fst same).symm
    · exact List.nodup_nil

theorem forwardStep_order : ∃ (order : List Msg) (d : Nat), order.Nodup ∧
    (∀ m, m ∈ order ↔ ∃ n < 48,
      (b.Within before after ∧ ∃ g, (b.skipped before after (b.entry n)).getLast? = some g ∧ m = .caughtUp n g) ∨
      (¬ (b.Within before after ∧ b.skipped before after (b.entry n) ≠ []) ∧
        (b.stepWarned e before after).occurrenceDue e n = true ∧ m = .occurrence n)) ∧
    b.forwardStep e before after =
      { b.stepWarned e before after with mail := order ++ b.mail, draws := d } := by
  obtain ⟨order, d, perm, sent⟩ := (b.stepWarned e before after).sendFree_spec
    (((b.stepWarned e before after).dueBeside e (b.lateOccurrences before after)).map Msg.occurrence ++
      (b.lateOccurrences before after).map fun l => Msg.caughtUp l.1 l.2)
  rw [stepWarned_mail] at sent
  refine ⟨order, d, perm.nodup_iff.2 (List.Nodup.append ?_ lateOccurrences_nodup ?_), fun m => ?_,
    forwardStep_eq.trans sent⟩
  · exact (List.nodup_range.filter _).map fun n m same => Msg.occurrence.inj same
  · intro m due late
    obtain ⟨_, _, rfl⟩ := List.mem_map.1 due
    obtain ⟨_, _, other⟩ := List.mem_map.1 late
    exact absurd other (by simp)
  · rw [perm.mem_iff, List.mem_append, List.mem_map, List.mem_map]
    constructor
    · rintro (⟨n, due, rfl⟩ | ⟨⟨n, g⟩, late, rfl⟩)
      · obtain ⟨bound, due, alone⟩ := mem_dueBeside.1 due
        exact ⟨n, bound, .inr ⟨alone, due, rfl⟩⟩
      · obtain ⟨bound, within, last⟩ := mem_lateOccurrences.1 late
        exact ⟨n, bound, .inl ⟨within, g, last, rfl⟩⟩
    · rintro ⟨n, bound, ⟨within, g, last, rfl⟩ | ⟨alone, due, rfl⟩⟩
      · exact .inr ⟨(n, g), mem_lateOccurrences.2 ⟨bound, within, last⟩, rfl⟩
      · exact .inl ⟨n, mem_dueBeside.2 ⟨bound, due, alone⟩, rfl⟩

end Forward

/-- R150, R198: while the configuration is not loading a change of time is taken. -/
theorem timeChange_operating {e : Env} {b : Body} {before : Option TowerTime} {after : TowerTime}
    (operating : b.port.loading = false) :
    b.timeChange e before after = match before with
      | none => b.recomputeAll e
      | some t =>
        if t.full < after.full then b.forwardStep e t after
        else if t.full = after.full then b
        else b.recomputeAll e :=
  if_neg (by simp [operating])

/-! ### Anchors, and the lowest player -/

/-- R148: the lowest-numbered FREE player among 1 to 7. -/
theorem Body.anyPlayer_iff {b : Body} {p : Nat} :
    b.anyPlayer = some p ↔ 1 ≤ p ∧ p ≤ 7 ∧ (b.player p).state = .free ∧
      ∀ k, 1 ≤ k → k < p → (b.player k).state ≠ .free := by
  rw [Body.anyPlayer, List.find?_map, Option.map_eq_some_iff]
  constructor
  · rintro ⟨i, found, rfl⟩
    obtain ⟨bound, free, lower⟩ := find?_range_iff.1 found
    refine ⟨by omega, by omega, by simpa using free, fun k first below => ?_⟩
    have busy := lower (k - 1) (by omega)
    simpa [Nat.sub_add_cancel first] using busy
  · rintro ⟨first, last, free, lower⟩
    refine ⟨p - 1, find?_range_iff.2 ⟨by omega, ?_, fun k below => ?_⟩, Nat.sub_add_cancel first⟩
    · simpa [Nat.sub_add_cancel first] using free
    · simpa using lower (k + 1) (by omega) (by omega)

/-- R148, R152: the instant that corresponds to a trigger, or the restart for a late one already past. -/
theorem anchorFor_tower {e : Env} {w : TowerTime} (tower : e.time.tower = some w) (b : Body) (g : Trigger)
    (catchUp : Bool) :
    b.anchorFor e g catchUp =
      if catchUp ∧ e.time.correspond w g.full < e.now + 8 * b.cal.margin then (e.now + 8 * b.cal.margin, true)
      else ((e.time.correspond w g.full).toNat, false) := by
  unfold Body.anchorFor
  rw [tower]
  rfl

/-! ### The launch instant -/

section LaunchInstant

variable {s : State} {n : Nat} {g : Trigger} {w : TowerTime}

theorem takeNext_due {e : Env} {b : Body} (next : (b.entry n).next = some g) (due : b.occurrenceDue e n = true) :
    b.takeNext e n = b.takeOccurrence e n g false := by
  unfold Body.takeNext
  rw [next]
  exact if_pos due

end LaunchInstant

/-- Settles O56, by the entry rewritten by a taking, and by what a change of time does to each entry. -/
theorem occurrencesAndChangesOfTime : Obligations.OccurrencesAndChangesOfTime := by
  refine ⟨fun s n g w free operating next tower reached => ?_,
    fun e b n g catchUp f bound fields => takeOccurrence_entry bound fields,
    fun b n p fate => ⟨fun active => if_pos active, fun other => if_neg other⟩,
    fun e b n g catchUp f => ⟨takeOccurrence_eq, fun cleared => ?_, fun p idle player => ?_,
      fun p => Body.anyPlayer_iff, fun w tower => ⟨?_, fun early => ?_, fun ahead => ?_⟩⟩,
    fun e b before after => ⟨fun loading w => if_pos loading, fun operating => ⟨?_, fun back => ?_,
      fun same => ?_, fun ahead => ?_⟩⟩,
    fun e b before after => ⟨fun x off => skipped_disabled off, fun x f fields enabled range =>
      ⟨skipped_sorted fields enabled range, fun g => mem_skipped fields enabled range⟩, ?_⟩⟩
  · have due : s.body.occurrenceDue s.env n = true :=
      Body.occurrenceDue_iff.2 ⟨operating, g, next, w, tower, reached⟩
    unfold exec
    refine (State.running_free free _).trans ?_
    rw [if_pos due, State.act, takeNext_due next due]
    rfl
  · unfold Body.takeOccurrence
    rw [cleared]
  · exact ⟨_, launchOccurrence_launch idle player⟩
  · exact (anchorFor_tower tower b g false).trans (if_neg (by simp))
  · exact (anchorFor_tower tower b g true).trans (if_pos ⟨rfl, early⟩)
  · exact (anchorFor_tower tower b g true).trans (if_neg fun late => Int.not_lt.2 ahead late.2)
  · exact timeChange_operating operating
  · exact (timeChange_operating operating).trans ((if_neg (Nat.lt_asymm back)).trans (if_neg (Nat.ne_of_gt back)))
  · exact (timeChange_operating operating).trans
      ((if_neg (Nat.not_lt.2 (Nat.le_of_eq same))).trans (if_pos same.symm))
  · exact (timeChange_operating operating).trans (if_pos ahead)
  · intro recorded u v
    have missed : b.recordedMissed before after = recorded := funext fun x => Entry.miss_eq x _
    have stepped : b.steppedOver e before after = u := by
      rw [Body.steppedOver, missed]
    have warned : b.stepWarned e before after = v := by
      rw [Body.stepWarned, stepped]
    have order := forwardStep_order (b := b) (before := before) (after := after) (e := e)
    rw [warned] at order
    exact order

end Sys2Proof.Machine
end


section
/-! SUPPORT. The events that blocks hand one another. -/

namespace Sys2Proof.Machine

set_option Elab.async false

section Handed

variable {e : Env} {b : Body} {bell : Nat}

theorem settleFor_idle (n : Nat) (h : b.mail = []) : b.settleFor e n = b := by
  cases n with
  | zero => rfl
  | succ n => rw [Body.settleFor, h]

theorem settleFor_next {m : Msg} {rest : List Msg} (n : Nat) (h : b.mail = m :: rest) :
    b.settleFor e (n + 1) = Body.settleFor e n (Body.handle e { b with mail := rest } m) := by
  rw [Body.settleFor, h]

theorem takeHammerFree_none (h : ∀ k ∈ b.sched.queue, ¬ (k.bell = bell ∧ k.state = .due)) :
    b.takeHammerFree e bell = b := by
  have none : b.sched.queue.findIdx? (fun k => k.bell == bell && k.state == .due) = none :=
    List.findIdx?_eq_none_iff.2 fun k mem => by simpa using h k mem
  rw [Body.takeHammerFree, none]

/-- R69: the hammer of a bell is free for the next DUE strike. -/
theorem hammerFree_iff : (!b.sched.access && b.hammerFreeFor bell) = true ↔
    b.sched.access = false ∧ (b.hammer bell).state = .idle ∧ ∀ o ∈ b.bus.sendList, o.bell ≠ bell := by
  rw [Bool.and_eq_true, Bool.not_eq_true', Body.hammerFreeFor_iff]

theorem takeHammerFree_held (h : (!b.sched.access && b.hammerFreeFor bell) = false) :
    b.takeHammerFree e bell = b := by
  unfold Body.takeHammerFree
  split
  · rfl
  · rw [h]
    rfl

theorem takeHammerFree_first {earlier later : List Strike} {k : Strike}
    (h : (!b.sched.access && b.hammerFreeFor bell) = true) (queue : b.sched.queue = earlier ++ k :: later)
    (due : k.bell = bell ∧ k.state = .due) (first : ∀ x ∈ earlier, ¬ (x.bell = bell ∧ x.state = .due)) :
    b.takeHammerFree e bell = b.handOff e earlier.length := by
  have found : b.sched.queue.findIdx? (fun k => k.bell == bell && k.state == .due) = some earlier.length := by
    have early : earlier.findIdx? (fun k => k.bell == bell && k.state == .due) = none :=
      List.findIdx?_eq_none_iff.2 fun x mem => by simpa using first x mem
    rw [queue, List.findIdx?_append, early, List.findIdx?_cons]
    simp [due]
  rw [Body.takeHammerFree, found]
  exact if_pos h

/-- R147: only occurrences are left among the events handed on. -/
theorem all_isOccurrence {mail : List Msg} : mail.all Msg.isOccurrence = true ↔
    ∀ m ∈ mail, (∃ n, m = .occurrence n) ∨ ∃ n g, m = .caughtUp n g := by
  rw [List.all_eq_true]
  refine forall₂_congr fun m _ => ?_
  cases m <;> simp [Msg.isOccurrence]

theorem takeNext_early {n : Nat} (h : b.occurrenceDue e n = false) : b.takeNext e n = b := by
  unfold Body.takeNext
  split
  · rw [h]
    rfl
  · rfl

end Handed

/-- Settles O60, by the branch that each event takes. -/
theorem handedEventsAreTakenInTurn : Obligations.HandedEventsAreTakenInTurn := by
  refine ⟨fun s f => rfl, fun s => rfl, fun e n b => ⟨settleFor_idle n, fun m rest => settleFor_next n⟩,
    fun e b => ⟨fun p way queued total => rfl, fun p => rfl, fun p => rfl, rfl, fun fate => rfl,
      fun n p fate => rfl, fun bell => ⟨takeHammerFree_none, fun held => ?_,
        fun free earlier k later queue due first => ?_⟩, fun bell => ⟨fun off => ?_, fun live => ?_⟩,
      fun n alone => ⟨fun g next due => ?_, fun early => ?_⟩, fun n g alone => ?_,
      fun crowded => ⟨fun n => ?_, fun n g => ?_⟩⟩,
    fun s => ⟨outside_finish (State.Outside.refl s), rfl, (keeps_finish s.env (Body.Keeps.refl _)).still⟩⟩
  · exact takeHammerFree_held (Bool.eq_false_iff.2 (mt hammerFree_iff.1 held))
  · exact takeHammerFree_first (hammerFree_iff.2 free) queue due first
  · exact if_pos off
  · exact (Body.lampsOfBell_eq e b bell).trans (congrArg b.setCon (Body.relitFor_live bell live))
  · exact (if_pos (all_isOccurrence.2 alone)).trans (takeNext_due next due)
  · exact (if_pos (all_isOccurrence.2 alone)).trans (takeNext_early early)
  · exact if_pos (all_isOccurrence.2 alone)
  · exact if_neg (mt all_isOccurrence.1 crowded)
  · exact if_neg (mt all_isOccurrence.1 crowded)

end Sys2Proof.Machine
end


section
/-! SUPPORT. The Schedule Port's transactions, frames and notices (R189 to R194, R202 to R204). -/

namespace Sys2Proof.Machine

set_option Elab.async false

/-! ### Transactions -/

section Transactions

variable {s : State} {r : Response} {n : Nat} {bytes : List Byte}

/-- R189: a response that is not clocked out whole waits on. -/
theorem Port.transaction_waits {p : Port} (h : p.response = some r) (hn : n < r.size) :
    p.transaction n false = p := by
  simp [Port.transaction, h, hn]

theorem exec_readTransaction (free : s.rst.held = false) (n : Nat) :
    exec (.readTransaction n) s = .next (s.setPort (s.body.port.transaction n false)) := by
  unfold exec
  exact State.running_free free _

theorem allIdle_iff : allIdle bytes = true ↔ ∀ x ∈ bytes, x = 255 := by
  simp [allIdle, idleByte]

theorem allIdle_false (h : ∃ x ∈ bytes, x ≠ 255) : allIdle bytes = false := by
  obtain ⟨x, mem, other⟩ := h
  exact Bool.eq_false_iff.2 fun idle => other (allIdle_iff.1 idle x mem)

theorem frameGood_iff : frameGood bytes = true ↔
    4 ≤ bytes.length ∧ byteAt bytes 1 ≤ 248 ∧ bytes.length = byteAt bytes 1 + 4 ∧
    (crc16 (bytes.take (bytes.length - 2))).toNat =
      256 * byteAt bytes (bytes.length - 2) + byteAt bytes (bytes.length - 1) := by
  simp only [frameGood, Bool.and_eq_true, decide_eq_true_eq, beq_iff_eq, and_assoc]
  refine and_congr_right fun long => and_congr_right fun _ => ?_
  rw [wordAt, show bytes.length - 2 + 1 = bytes.length - 1 by omega,
    show 2 + byteAt bytes 1 + 2 = byteAt bytes 1 + 4 by omega]

theorem exec_badFrameRequest (free : s.rst.held = false) (bad : frameGood bytes = false)
    (busy : ∃ x ∈ bytes, x ≠ 255) :
    exec (.badFrameRequest bytes) s = .next (s.setPort (s.body.port.transaction bytes.length true)).badFrame := by
  unfold exec
  refine (State.running_free free _).trans ?_
  rw [if_neg (by simp [allIdle_false busy, bad])]

/-- R189, R190: the port when a request of this many bytes fails the frame check. -/
theorem transaction_badFrame (s : State) (n : Nat) :
    (s.setPort (s.body.port.transaction n true)).badFrame = s.setPort { s.body.port with
      badFrames := s.body.port.badFrames + 1
      response := some { status := .badFrame, payload := [] }
      discarded := match s.body.port.response with
        | none => s.body.port.discarded
        | some r => if r.payload.length + 4 ≤ n then s.body.port.discarded
          else s.body.port.discarded + 1 } := by
  cases waiting : s.body.port.response with
  | none =>
    rw [Port.transaction_none n true waiting]
    rfl
  | some r =>
    by_cases whole : r.payload.length + 4 ≤ n
    · rw [Port.transaction_read true waiting whole]
      simp only [if_pos whole]
      rfl
    · rw [Port.transaction_discard waiting (Nat.lt_of_not_le whole)]
      simp only [if_neg whole]
      rfl

theorem exec_unknownCommand {c : Byte} {p : List Byte} (free : s.rst.held = false)
    (unknown : c.toNat ∉ commandBytes) (fits : p.length ≤ 248) :
    exec (.unknownCommand c p) s = .next (s.answer p
      { status := if s.body.port.loading then .starting else .unknownCommand, payload := [] }) := by
  have test : ¬ (commandBytes.contains c.toNat || decide (248 < p.length)) = true := by
    simp [unknown, fits]
  unfold exec
  refine (State.running_free free _).trans ?_
  rw [if_neg test]
  dsimp only
  rw [State.arrive_heard]
  rfl

end Transactions

/-! ### Notices -/

/-- R204: the kinds of notices, in the order of their bits. -/
def Notice.kinds : List Notice :=
  [.perfEnd, .preempted, .claimTimeout, .bellFailed, .boardOffline, .boardOnline, .clockState, .clockStep,
    .queueFull, .consoleSession, .access, .calendarMissed, .configError]

theorem Notice.kinds_bits : Notice.kinds.map Notice.bit = List.range 13 := rfl

theorem Notice.exists_bit {i : Nat} (h : i < 13) : ∃ n : Notice, n.bit = i := by
  have mem : i ∈ Notice.kinds.map Notice.bit := by
    rw [Notice.kinds_bits]
    exact List.mem_range.2 h
  obtain ⟨n, _, bit⟩ := List.mem_map.1 mem
  exact ⟨n, bit⟩

theorem Port.notice_iff {p : Port} : p.notice = true ↔
    ∃ n : Notice, p.pendingFlags.getLsbD n.bit = true ∧ p.enabled.getLsbD n.bit = true := by
  rw [Port.notice, bne_iff_ne]
  constructor
  · intro some_
    by_contra none
    refine some_ (BitVec.eq_of_getLsbD_eq fun i bound => ?_)
    obtain ⟨n, rfl⟩ := Notice.exists_bit bound
    rw [BitVec.getLsbD_and, BitVec.getLsbD_zero]
    exact Bool.eq_false_iff.2 fun both => none ⟨n, by simpa using both⟩
  · rintro ⟨n, pending, enabled⟩ zero
    have bit := congrArg (·.getLsbD n.bit) zero
    simp [pending, enabled] at bit

theorem parseNotices_u16 (kinds : BitVec 13) : parseNotices (u16 kinds.toNat) = some kinds := by
  have bound := kinds.isLt
  have word : wordAt (u16 kinds.toNat) 0 = kinds.toNat := wordAt_u16 (by omega)
  rw [parseNotices, check_eq_some, word]
  exact ⟨by simpa [u16] using bound, BitVec.ofNat_toNat _ _ ▸ by simp⟩

theorem exec_clearNotices (p : List Byte) (s : State) :
    exec (.clearNotices p) s = s.request p parseNotices State.ownClearNotices := rfl

theorem exec_setNoticeMask (p : List Byte) (s : State) :
    exec (.setNoticeMask p) s = s.request p parseNotices fun s kinds =>
      (s.setPort { s.body.port with enabled := kinds }).done [] := rfl

/-! ### The CRC -/

theorem crcBit_eq (c : BitVec 16) : crcBit c = if c.getLsbD 15 then (c <<< 1) ^^^ 0x1021 else c <<< 1 := by
  rw [crcBit, BitVec.msb_eq_getLsbD_last]
  rfl

theorem crc16_append (bytes : List Byte) (x : Byte) : crc16 (bytes ++ [x]) = crcByte (crc16 bytes) x := by
  simp [crc16]

theorem crcByte_eq (c : BitVec 16) (x : Byte) :
    crcByte c x = (List.range 8).foldl (fun c _ => crcBit c) (c ^^^ (x.zeroExtend 16 <<< 8)) := rfl

/-! ### The bytes clocked out -/

/-- A list cut or filled up to a length. -/
theorem padded_getD {α : Type} (l : List α) (fill z : α) {n i : Nat} (h : i < n) :
    (l.take n ++ List.replicate (n - l.length) fill).getD i z = l.getD i fill := by
  by_cases inside : i < l.length
  · simp [List.getD_eq_getElem?_getD, List.getElem?_append, inside, h]
  · have beyond : i - min n l.length < n - l.length := by omega
    simp [List.getD_eq_getElem?_getD, List.getElem?_append, inside, h, beyond]

theorem byteAt_idle {n i : Nat} (h : i < n) : byteAt (List.replicate n idleByte) i = 255 := by
  simp [byteAt, idleByte, List.getD_eq_getElem?_getD, h]

theorem byteAt_clockedOut_idle {s : State} {n i : Nat} (h : i < n)
    (idle : s.rst.held = true ∨ s.body.port.response = none) : byteAt (s.clockedOut n) i = 255 := by
  unfold State.clockedOut
  split
  · exact byteAt_idle h
  next free =>
    obtain held | waits := idle
    · exact absurd held free
    · have empty : s.body.port.clockedOut n = List.replicate n idleByte := by
        simp [Port.clockedOut, waits]
      rw [empty]
      exact byteAt_idle h

theorem byteAt_clockedOut_response {s : State} {r : Response} {n i : Nat} (h : i < n)
    (free : s.rst.held = false) (waits : s.body.port.response = some r) :
    byteAt (s.clockedOut n) i = (r.frame.getD i 255).toNat := by
  have out : s.clockedOut n = r.frame.take n ++ List.replicate (n - r.frame.length) idleByte := by
    simp [State.clockedOut, Port.clockedOut, free, waits]
  rw [out, byteAt, padded_getD _ _ _ h]
  rfl

/-! ### Which row a request is -/

section Rows

variable {p bytes : List Byte}

theorem stopPlayerRow_finish {q : Nat} (h : parseStopPlayer p = some (q, .finish)) :
    stopPlayerRow p = .stopPlayerFinish p := by
  simp only [stopPlayerRow, h]

theorem stopPlayerRow_stop (h : ∀ q, parseStopPlayer p ≠ some (q, .finish)) :
    stopPlayerRow p = .stopPlayerStop p := by
  unfold stopPlayerRow
  split
  next q read => exact absurd read (h q)
  · rfl

theorem endConsoleRow_cut (h : parseEndConsole p = some .cut) : endConsoleRow p = .endConsoleCut p := by
  simp only [endConsoleRow, h]

theorem endConsoleRow_end (h : parseEndConsole p ≠ some .cut) : endConsoleRow p = .endConsoleEnd p := by
  unfold endConsoleRow
  split
  next read => exact absurd read h
  · rfl

theorem commandNamed_none {n : Nat} : commandNamed n p = none ↔ n ∉ commandBytes := by
  unfold commandNamed commandBytes
  split <;> simp_all

theorem transactionRow_good (command : Byte) (fits : p.length ≤ 248) :
    transactionRow (requestFrame command p) =
      (commandNamed command.toNat p).getD (.unknownCommand command p) := by
  obtain ⟨good, first, second, payload⟩ := requestFrame_spec command p fits
  have busy : allIdle (requestFrame command p) = false := by
    refine Bool.eq_false_iff.2 fun idle => ?_
    have length : byteAt (requestFrame command p) 1 = 255 :=
      congrArg BitVec.toNat (allIdle_iff.1 idle (BitVec.ofNat 8 p.length) (by simp [requestFrame, u8]))
    omega
  have named : byteAt (requestFrame command p) 0 = command.toNat := congrArg BitVec.toNat first
  unfold transactionRow
  rw [busy, good, second, payload, first, named]
  rfl

end Rows

/-- Settles O59, by what each of the port's functions answers. -/
theorem portTransactionsAndNotices : Obligations.PortTransactionsAndNotices := by
  refine ⟨fun s n free => ⟨fun idle => ?_, fun r waits => ⟨fun whole => ?_, fun cut => ?_⟩⟩,
    fun bytes => frameGood_iff,
    fun s bytes free bad busy => (exec_badFrameRequest free bad busy).trans
      (congrArg _ (transaction_badFrame s bytes.length)),
    fun s c p free unknown fits => exec_unknownCommand free unknown fits,
    fun p => ⟨Option.isSome_iff_ne_none, Port.notice_iff⟩, Notice.kinds_bits,
    fun p n => ⟨rfl, fun k => ?_⟩, fun bytes x => ⟨rfl, ?_⟩,
    fun s n => ⟨State.clockedOut_length s n, fun i bound =>
      ⟨byteAt_clockedOut_idle bound, fun r free waits => byteAt_clockedOut_response bound free waits⟩⟩,
    fun r command payload => ⟨rfl, rfl⟩, rfl,
    fun p => ⟨rfl, rfl, rfl, rfl, rfl, rfl, rfl, rfl, rfl, rfl,
      fun q read => congrArg some (stopPlayerRow_finish read),
      fun read => congrArg some (stopPlayerRow_stop read),
      fun read => congrArg some (endConsoleRow_cut read),
      fun read => congrArg some (endConsoleRow_end read), fun n => commandNamed_none⟩,
    fun bytes => ⟨fun idle => if_pos (allIdle_iff.2 idle), fun busy bad => ?_⟩,
    fun command p fits => ⟨(requestFrame_spec command p fits).1, fun unknown => ?_, fun c named => ?_⟩,
    fun s p kinds heard payload => ⟨?_, ?_⟩⟩
  · rw [exec_readTransaction free, Port.transaction_none n false idle]
    rfl
  · rw [exec_readTransaction free, Port.transaction_read false waits whole]
  · rw [exec_readTransaction free, Port.transaction_waits waits cut]
    rfl
  · rw [Port.raise_flag]
    by_cases same : k = n
    · simp [same]
    · simp [same, Ne.symm same]
  · rw [crc16_append, crcByte_eq]
    simp only [crcBit_eq]
  · unfold transactionRow
    rw [allIdle_false busy, bad]
    rfl
  · rw [transactionRow_good command fits, commandNamed_none.2 unknown]
    rfl
  · rw [transactionRow_good command fits, named]
    rfl
  · have read : parseNotices p = some kinds := payload ▸ parseNotices_u16 kinds
    rw [exec_clearNotices, State.request_heard heard read]
    rfl
  · have read : parseNotices p = some kinds := payload ▸ parseNotices_u16 kinds
    rw [exec_setNoticeMask, State.request_heard heard read]
    rfl

end Sys2Proof.Machine
end


section
/-! SUPPORT. The Console Interface: arrivals, frames and the head of the FIFO (R161 to R167, R206). -/

namespace Sys2Proof.Machine

set_option Elab.async false

/-! ### Arrivals -/

/-- A change of the blocks counts by its outcome. -/
theorem State.act_congr {s : State} {f g : Env → Body → Body} (h : f s.env s.body = g s.env s.body) :
    s.act f = s.act g := by
  rw [State.act, State.act, h]

section Arrivals

variable {e : Env} {b : Body} {kind : ConsoleKind}

theorem consoleArrival_enters (room : b.con.fifo.length < 64) :
    b.consoleArrival e kind = (b.setCon { b.con with
      fifo := b.con.fifo ++ [{ kind := kind, arrival := e.now }], events := b.con.events + 1
      hold := if b.con.settings.hold ≤ b.con.fifo.length + 1 then true else b.con.hold }).send .considerHead := by
  have longer : (b.con.fifo ++ [ConsoleEvent.mk kind e.now]).length = b.con.fifo.length + 1 := by simp
  rw [← longer]
  exact if_pos room

theorem consoleArrival_overrun (full : 64 ≤ b.con.fifo.length) :
    b.consoleArrival e kind = b.setCon { b.con with overrun := b.con.overrun + 1 } :=
  if_neg (Nat.not_lt.2 full)

theorem keyEvent_malformed {pitch force : Byte} (h : 95 < pitch.toNat ∨ force.toNat = 0 ∨ 15 < force.toNat) :
    keyEvent pitch force = .malformed :=
  if_neg (by omega)

end Arrivals

section Frames

variable {s : State} {c : Instr} {kind : ConsoleKind}

/-- R161, R162: the row of a whole frame that brings an event. -/
theorem exec_consoleEvent (free : s.rst.held = false)
    (h : (c = .consoleOpen ∧ kind = .openSession) ∨ (c = .consoleClose ∧ kind = .close) ∨
      (∃ pitch force : Byte, c = .consoleKey pitch force ∧ pitch.toNat ≤ 95 ∧ 1 ≤ force.toNat ∧
        force.toNat ≤ 15 ∧ kind = .key pitch.toNat force.toNat)) :
    exec c s = .next (s.act fun e b => (b.frameSeen e).consoleArrival e kind) := by
  obtain ⟨rfl, rfl⟩ | ⟨rfl, rfl⟩ | ⟨pitch, force, rfl, top, low, high, rfl⟩ := h
  · unfold exec
    exact State.running_free free _
  · unfold exec
    exact State.running_free free _
  · have event : keyEvent pitch force = .event (.key pitch.toNat force.toNat) := if_pos ⟨top, low, high⟩
    unfold exec
    refine (State.running_free free _).trans ?_
    rw [event]
    rfl

theorem exec_consoleKey (free : s.rst.held = false) (pitch force : Byte) :
    exec (.consoleKey pitch force) s =
      .next (s.act fun e b => (b.frameSeen e).frameArrival e (keyEvent pitch force)) := by
  unfold exec
  exact State.running_free free _

theorem exec_alive (free : s.rst.held = false) :
    exec .alive s = .next (s.setBody (s.body.frameSeen s.env)) := by
  unfold exec
  exact State.running_free free _

theorem exec_malformedConsoleFrame (free : s.rst.held = false) :
    exec .malformedConsoleFrame s =
      .next (s.setBody ((s.body.frameSeen s.env).setCon (s.body.frameSeen s.env).con.malformedFrame)) := by
  unfold exec
  exact State.running_free free _

end Frames

/-! ### Bytes -/

section Bytes

variable {e : Env} {b : Body} {x kind : Byte} {rest : List Byte}

/-- R206: the kind bytes. -/
def consoleKinds : List Byte := [129, 130, 131, 132]

theorem bytesAfterKind_known (h : kind ∈ consoleKinds) :
    bytesAfterKind kind = some (if kind = 130 then 3 else 1) := by
  unfold bytesAfterKind
  split
  · rfl
  next other =>
    have one : kind = 129 ∨ kind = 131 ∨ kind = 132 := by
      simp only [consoleKinds, List.mem_cons, List.not_mem_nil, or_false] at h
      tauto
    rw [if_pos one]

theorem bytesAfterKind_unknown (h : x ∉ consoleKinds) : bytesAfterKind x = none := by
  simp only [consoleKinds, List.mem_cons, List.not_mem_nil, or_false, not_or] at h
  obtain ⟨open_, key, close, alive⟩ := h
  rw [bytesAfterKind, if_neg key, if_neg fun known => known.elim open_ (·.elim close alive)]

theorem consoleKinds_high (h : x ∈ consoleKinds) : 128 ≤ x.toNat := by
  simp only [consoleKinds, List.mem_cons, List.not_mem_nil, or_false] at h
  obtain rfl | rfl | rfl | rfl := h <;> decide

theorem beginFrame_known {c : Console} (h : x ∈ consoleKinds) :
    c.beginFrame x = { c with rx := [x], strayRun := false } := by
  simp only [Console.beginFrame, bytesAfterKind_known h]

theorem beginFrame_unknown {c : Console} (h : x ∉ consoleKinds) :
    c.beginFrame x = { c.malformedFrame with rx := [], strayRun := true } := by
  simp only [Console.beginFrame, bytesAfterKind_unknown h]

/-- R170: the Console Interface that has seen a byte. -/
def Body.seen (e : Env) (b : Body) : Console := { b.con with lastByte := some e.now }

theorem linkByte_stray (none : b.con.rx = []) (low : x.toNat < 128) :
    b.linkByte e x = b.setCon (if b.con.strayRun then b.seen e
      else { b.seen e with malformed := b.con.malformed + 1, strayRun := true }) := by
  have rx : (b.linkByteSeen e).con.rx = [] := none
  unfold Body.linkByte
  simp only [rx]
  rw [if_neg (Nat.not_le.2 low)]
  by_cases run : b.con.strayRun = true
  · rw [if_pos run]
    exact if_pos run
  · rw [if_neg run]
    exact if_neg run

/-- R206: a byte with bit 7 set begins a frame; one that was begun is malformed. -/
theorem linkByte_begins (high : 128 ≤ x.toNat) :
    b.linkByte e x = b.setCon (Console.beginFrame { b.seen e with
      malformed := b.con.malformed + (if b.con.rx = [] then 0 else 1) } x) := by
  unfold Body.linkByte
  dsimp only
  split
  next none =>
    have empty : b.con.rx = [] := none
    rw [if_pos high, if_pos empty]
    have same : b.con.malformed + 0 = b.con.malformed := BitVec.add_zero _
    rw [same]
    rfl
  next kind rest begun =>
    have some_ : b.con.rx = kind :: rest := begun
    rw [if_pos high, if_neg (by simp [some_])]
    rfl

theorem linkByte_known (h : x ∈ consoleKinds) :
    b.linkByte e x = b.setCon { b.seen e with
      rx := [x], strayRun := false, malformed := b.con.malformed + (if b.con.rx = [] then 0 else 1) } := by
  rw [linkByte_begins (consoleKinds_high h), beginFrame_known h]

theorem linkByte_unknown (high : 128 ≤ x.toNat) (h : x ∉ consoleKinds) :
    b.linkByte e x = b.setCon { b.seen e with
      rx := [], strayRun := true, malformed := b.con.malformed + (if b.con.rx = [] then 1 else 2) } := by
  rw [linkByte_begins high, beginFrame_unknown h]
  have count : b.con.malformed + (if b.con.rx = [] then 0 else 1) + 1 =
      b.con.malformed + (if b.con.rx = [] then 1 else 2) := by
    split
    · exact congrArg (· + 1) (BitVec.add_zero _)
    · rw [BitVec.add_assoc]
      rfl
  rw [← count]
  rfl

theorem linkByte_goesOn (begun : b.con.rx = kind :: rest) (known : kind ∈ consoleKinds) (low : x.toNat < 128) :
    b.linkByte e x =
      if b.con.rx.length = (if kind = 130 then 3 else 1) then
        (b.setCon { b.seen e with rx := [] }).frameArrival e (judgeFrame (b.con.rx ++ [x]))
      else b.setCon { b.seen e with rx := b.con.rx ++ [x] } := by
  have rx : (b.linkByteSeen e).con.rx = kind :: rest := begun
  have full : (kind :: rest ++ [x]).length = 1 + (bytesAfterKind kind).getD 0 ↔
      (kind :: rest).length = (if kind = 130 then 3 else 1) := by
    rw [bytesAfterKind_known known, Option.getD_some]
    simp only [List.length_append, List.length_cons, List.length_nil]
    omega
  unfold Body.linkByte
  simp only [rx]
  rw [if_neg (Nat.not_le.2 low), begun]
  exact if_congr full rfl rfl

end Bytes

/-! ### Whole frames -/

/-- R161: what a frame whose check byte is right brings. -/
def frameMeaning (bytes : List Byte) : FrameEvent :=
  match byteAt bytes 0 with
  | 129 => .event .openSession
  | 130 => keyEvent (bytes.getD 1 0) (bytes.getD 2 0)
  | 131 => .event .close
  | 132 => .alive
  | _ => .malformed

theorem judgeFrame_ite {bytes : List Byte} {check last : Byte} (checked : consoleCheck bytes.dropLast = check)
    (ends : bytes.getLastD 0 = last) :
    judgeFrame bytes = if last = check then frameMeaning bytes else .malformed := by
  subst checked ends
  by_cases h : bytes.getLastD 0 = consoleCheck bytes.dropLast
  · rw [if_pos h]
    exact if_neg (not_not_intro h.symm)
  · rw [if_neg h]
    exact if_pos (Ne.symm h)

theorem judgeFrame_key (pitch force x : Byte) : judgeFrame [130, pitch, force, x] =
    if x = (130 ^^^ pitch ^^^ force) &&& 127 ∧ pitch.toNat ≤ 95 ∧ 1 ≤ force.toNat ∧ force.toNat ≤ 15
    then .event (.key pitch.toNat force.toNat) else .malformed :=
  (judgeFrame_ite (check := (130 ^^^ pitch ^^^ force) &&& 127) rfl rfl).trans (ite_and _ _ _ _).symm

/-! ### The head -/

section Head

variable {e : Env} {b : Body} {h : ConsoleEvent} {rest : List ConsoleEvent}

theorem openAccepted_iff : b.openAccepted = true ↔
    b.con.session = .off ∧ b.con.settings.enable = true ∧ b.port.loading = false := by
  simp [Body.openAccepted, and_assoc]

theorem considerHead_open (fifo : b.con.fifo = h :: rest) (kind : h.kind = .openSession) :
    b.considerHead e = (b.takeOpen e).send .considerHead := by
  simp only [Body.considerHead, fifo, kind]

theorem considerHead_close (fifo : b.con.fifo = h :: rest) (kind : h.kind = .close) :
    b.considerHead e = if b.con.session = .live then (b.setCon b.con.removeHead).closeDrain e .close
      else (b.setCon b.con.removeHead).send .considerHead := by
  simp only [Body.considerHead, fifo, kind]
  rfl

theorem considerHead_key {pitch force : Nat} (fifo : b.con.fifo = h :: rest) (kind : h.kind = .key pitch force) :
    b.considerHead e = if b.con.inFlight = true then b
      else if b.con.session = .live then
        if b.occupancy < 256 then b.setCon { b.con with inFlight := true } else b
      else b.ignoreKey := by
  simp only [Body.considerHead, fifo, kind]

/-- R163: the Console Interface whose head has left the FIFO. -/
theorem removeHead_eq (c : Console) : c.removeHead = { c with
    fifo := c.fifo.tail, inFlight := false
    hold := if c.fifo.tail.length ≤ c.settings.resume then false else c.hold } := rfl

/-- R165: the body at an accepted OPEN, before its lamps are computed. -/
def Body.opened (e : Env) (b : Body) : Body :=
  let u := b.setCon b.con.removeHead
  let v := (u.launch e
    { player := 0, origin := .console, piece := .console b.con.settings.map, anchor := none,
      claimKind := .partialClaim, priority := b.con.settings.priority,
      preemptive := b.con.settings.preemptive, waitLimit := 0, policy := .defer,
      slack := b.con.settings.slack, notice := false, lateStart := false }).1
  (v.setCon { v.con with
    session := .live, openInstant := some e.now, closeCause := none,
    sessions := v.con.sessions + 1 }).raise .consoleSession

theorem takeOpen_accepted (accepted : b.con.session = .off ∧ b.con.settings.enable = true ∧ b.port.loading = false) :
    b.takeOpen e = (b.opened e).setCon { (b.opened e).con with
      lamps := (b.opened e).con.lamps.mapIdx fun k _ =>
        if ((b.opened e).lookup e 0 (b.opened e).con.settings.map k).isSome then .held else .lost } := by
  have taken : b.takeOpen e = (b.opened e).recomputeLamps e fun _ => true :=
    if_pos (openAccepted_iff.2 accepted)
  rw [taken, Body.recomputeLamps_eq e _ _ rfl, if_neg (by simp [Body.opened, Body.raise, Body.setCon, Body.setPort])]
  rfl

theorem takeOpen_refused (refused : ¬ (b.con.session = .off ∧ b.con.settings.enable = true ∧ b.port.loading = false)) :
    b.takeOpen e = b.setCon { b.con.removeHead with openRefused := b.con.openRefused + 1, refusedOwed := true } :=
  if_neg (mt openAccepted_iff.1 refused)

end Head

/-- Settles O57, by the arrival of an event, the byte that comes next, and the kind of the head. -/
theorem consoleEventsArrive : Obligations.ConsoleEventsArrive := by
  refine ⟨fun s c kind free row => ⟨fun room => ?_, fun full => ?_⟩,
    fun s free => ⟨exec_alive free, exec_malformedConsoleFrame free, fun pitch force wrong => ?_⟩,
    fun s x free => ?_,
    fun e b => ⟨rfl, rfl, fun kind => ⟨consoleArrival_enters, consoleArrival_overrun⟩⟩,
    fun e b => ⟨takeOpen_accepted, takeOpen_refused, fun none => ?_, fun h rest fifo =>
      ⟨considerHead_open fifo, fun close other => ?_, fun close live => ?_, fun pitch force key =>
        ⟨fun flying => ?_, fun grounded live => ?_, fun grounded other => ?_⟩⟩⟩,
    fun x pitch force => ⟨judgeFrame_ite (show consoleCheck [129] = 1 by decide) rfl,
      judgeFrame_ite (show consoleCheck [131] = 3 by decide) rfl,
      judgeFrame_ite (show consoleCheck [132] = 4 by decide) rfl, judgeFrame_key pitch force x⟩⟩
  · rw [exec_consoleEvent free row]
    exact congrArg _ (State.act_congr (consoleArrival_enters (b := s.body.frameSeen s.env) room))
  · rw [exec_consoleEvent free row]
    exact congrArg _ (State.act_congr (consoleArrival_overrun (b := s.body.frameSeen s.env) full))
  · rw [exec_consoleKey free, keyEvent_malformed wrong]
    rfl
  · have taken : exec (.consoleLinkByte x) s = .next (s.act fun e b => b.linkByte e x) := by
      unfold exec
      exact State.running_free free _
    refine ⟨fun none low => ?_, fun known => ?_, fun high unknown => ?_, fun kind rest begun known low =>
      ⟨fun short => ?_, fun full => ?_⟩⟩
    all_goals rw [taken]; refine congrArg _ (State.act_congr ?_)
    · exact linkByte_stray none low
    · exact linkByte_known known
    · exact linkByte_unknown high unknown
    · exact (linkByte_goesOn begun known low).trans (if_neg (Nat.ne_of_lt short))
    · exact (linkByte_goesOn begun known low).trans (if_pos full)
  · unfold Body.considerHead
    rw [none]
  · exact (considerHead_close fifo close).trans (if_neg other)
  · exact (considerHead_close fifo close).trans (if_pos live)
  · exact (considerHead_key fifo key).trans (if_pos flying)
  · exact (considerHead_key fifo key).trans ((if_neg (by simp [grounded])).trans (if_pos live))
  · exact (considerHead_key fifo key).trans ((if_neg (by simp [grounded])).trans (if_neg other))

end Sys2Proof.Machine
end


section
/-! SUPPORT. The Console Interface: its commands, the key in flight, the loss of the link and the reports
(R121, R167 to R171, R173, R174). -/

namespace Sys2Proof.Machine

set_option Elab.async false

/-! ### SET-CONSOLE and END-CONSOLE -/

section Commands

variable {s : State} {p : List Byte} {c : ConsoleSettings}

theorem exec_setConsole (p : List Byte) (s : State) :
    exec (.setConsole p) s = s.request p parseSetConsole State.ownSetConsole := rfl

theorem exec_endConsoleEnd (p : List Byte) (s : State) :
    exec (.endConsoleEnd p) s = s.request p parseEndConsole State.ownEndConsole := rfl

theorem exec_endConsoleCut (p : List Byte) (s : State) :
    exec (.endConsoleCut p) s = s.request p parseEndConsole State.ownEndConsole := rfl

theorem locked_iff {old : ConsoleSettings} :
    old.locked c = true ↔ ¬ (c.hold = old.hold ∧ c.resume = old.resume ∧ c.map = old.map) := by
  rw [ConsoleSettings.locked, eq_comm (a := c.hold), eq_comm (a := c.resume), eq_comm (a := c.map)]
  simp only [Bool.or_eq_true, bne_iff_ne]
  tauto

theorem ownSetConsole_locked (exists_ : s.body.con.session ≠ .off)
    (change : ¬ (c.hold = s.body.con.settings.hold ∧ c.resume = s.body.con.settings.resume ∧
      c.map = s.body.con.settings.map)) : s.ownSetConsole c = s.refuse .inUse :=
  if_pos ⟨exists_, locked_iff.2 change⟩

theorem ownSetConsole_set (free : s.body.con.session = .off ∨
    (c.hold = s.body.con.settings.hold ∧ c.resume = s.body.con.settings.resume ∧
      c.map = s.body.con.settings.map)) :
    s.ownSetConsole c = (s.setBody (s.body.setCon { s.body.con with settings := c })).done [] :=
  if_neg fun ⟨exists_, change⟩ => free.elim exists_ (locked_iff.1 change)

theorem ownEndConsole_off (x : EndVariant) (off : s.body.con.session = .off) :
    s.ownEndConsole x = s.refuse .notActive :=
  if_pos off

theorem ownEndConsole_live (live : s.body.con.session = .live) :
    s.ownEndConsole .drain = (s.act fun e b => b.closeDrain e .endConsole).done [] :=
  (if_neg (by simp [live])).trans (if_pos live)

theorem ownEndConsole_closing (closing : s.body.con.session = .closing) :
    s.ownEndConsole .drain = s.done [] :=
  (if_neg (by simp [closing])).trans (if_neg (by simp [closing]))

theorem ownEndConsole_cut (exists_ : s.body.con.session ≠ .off) :
    s.ownEndConsole .cut = (s.act fun e b => b.closeCut e).done [] :=
  if_neg exists_

end Commands

/-! ### The link -/

/-- R170: the deadline of the link. -/
theorem linkLossDue_live {s : State} {m : Nat} (live : s.body.con.session = .live)
    (last : s.body.con.lastByte = some m) (reached : m + 40000 ≤ s.now) : s.linkLossDue = true := by
  simpa [State.linkLossDue, Console.linkDeadline, live, last, State.isReached] using reached

/-! ### The key in flight -/

section Key

variable {e : Env} {b : Body} {pitch force arrival : Nat} {f : Performance} {rest : List ConsoleEvent}

theorem removeHead_cons {c : Console} {h : ConsoleEvent} (fifo : c.fifo = h :: rest) :
    c.removeHead = { c with
      fifo := rest, inFlight := false
      hold := if rest.length ≤ c.settings.resume then false else c.hold } := by
  rw [removeHead_eq, fifo]
  rfl

theorem takeKey_flying (fifo : b.con.fifo = { kind := .key pitch force, arrival := arrival } :: rest)
    (flying : b.con.inFlight = true) : b.takeKey e = b.playKey e pitch force arrival := by
  unfold Body.takeKey
  rw [fifo]
  exact if_pos flying

theorem playKey_ignored (idle : (b.player 0).state ≠ .playing) : b.playKey e pitch force arrival = b.ignoreKey := by
  unfold Body.playKey
  split
  · rfl
  · exact if_pos idle

/-- R121: player 0 has read a record. -/
def Body.keyRead (b : Body) : Body := b.modPlayer 0 fun x => { x with recordsRead := x.recordsRead + 1 }

theorem playKey_muted (playing : (b.player 0).state = .playing) (perf : (b.player 0).perf = some f)
    (none : b.keyRead.lookup e 0 (f.map.getD .a) pitch = none) :
    b.playKey e pitch force arrival = (b.keyRead.modPlayer 0 Player.mute).keyDone := by
  unfold Body.playKey
  rw [perf]
  refine (if_neg (not_not_intro playing)).trans ?_
  unfold Body.keyRead at none ⊢
  dsimp only
  rw [none]

theorem playKey_asked {i : Nat} (playing : (b.player 0).state = .playing) (perf : (b.player 0).perf = some f)
    (bell : b.keyRead.lookup e 0 (f.map.getD .a) pitch = some i) :
    let r := b.keyRead.askAdmission e 0
      { bell := i, force := force, sounding := b.keyRead.keySounding e i force arrival,
        origin := .console, player := some 0, tunePosition := none, policy := .defer,
        slack := 8 * f.slack }
    b.playKey e pitch force arrival =
      if r.2 = .refused .full then r.1.setCon { r.1.con with inFlight := false } else r.1.keyDone := by
  unfold Body.playKey
  rw [perf]
  refine (if_neg (not_not_intro playing)).trans ?_
  unfold Body.keyRead at bell ⊢
  dsimp only
  rw [bell]

theorem exec_player0Key_flying {s : State} (free : s.rst.held = false)
    (fifo : s.body.con.fifo = { kind := .key pitch force, arrival := arrival } :: rest)
    (flying : s.body.con.inFlight = true) :
    exec .player0Key s = .next (s.act fun e b => b.playKey e pitch force arrival) := by
  unfold exec
  refine (State.running_free free _).trans ?_
  rw [if_pos flying]
  exact congrArg _ (State.act_congr (takeKey_flying fifo flying))

theorem exec_player0Key_grounded {s : State} (free : s.rst.held = false) (grounded : s.body.con.inFlight = false) :
    exec .player0Key s = .next s := by
  unfold exec
  refine (State.running_free free _).trans ?_
  rw [if_neg (by simp [grounded])]

end Key

/-! ### Reports -/

section Reports

variable {c : Console}

theorem exec_consoleReportSent {s : State} {r : Report} (free : s.rst.held = false)
    (sending : s.body.con.sending = some r) :
    exec .consoleReportSent s = .next (s.setBody (s.body.setCon (s.body.con.reportSent r).transmit)) := by
  unfold exec
  refine (State.running_free free _).trans ?_
  simp only [sending]

theorem transmit_idle (idle : c.sending = none) : c.transmit = { c with sending := c.nextReport } :=
  if_pos idle

theorem nextReport_refused (owed : c.refusedOwed = true) : c.nextReport = some .refused :=
  if_pos owed

theorem nextReport_state (refused : c.refusedOwed = false) (told : c.sentState ≠ some c.stateReport) :
    c.nextReport = some (.session c.stateReport.1 c.stateReport.2) :=
  (if_neg (by simp [refused])).trans (if_pos (by simpa [Console.stateOwed] using told))

theorem nextReport_lamps (refused : c.refusedOwed = false) (told : c.sentState = some c.stateReport) :
    c.nextReport = ((List.range 96).find? c.lampOwed).map fun p => .lamp p (c.lamps.getD p .lost) :=
  (if_neg (by simp [refused])).trans (if_neg (by simp [Console.stateOwed, told]))

theorem lampOwed_iff {k : Nat} : c.lampOwed k = true ↔ c.lamps.getD k .lost ≠ c.sentLamps.getD k .lost := by
  rw [Console.lampOwed, bne_iff_ne]

end Reports

/-- Settles O58, by the session's state, the key at the head, and the report that is owed. -/
theorem sessionCommandsAndKeys : Obligations.SessionCommandsAndKeys := by
  refine ⟨fun s p c heard read => ⟨fun exists_ change => ?_, fun free => ?_⟩,
    fun s free operating => ?_,
    fun s pitch force arrival rest free fifo => ⟨exec_player0Key_grounded free, fun flying => ?_⟩,
    fun s r free sending => ?_, ⟨rfl, rfl, fun o => ⟨rfl, rfl⟩, fun pitch => ⟨rfl, rfl⟩⟩,
    fun b => ?_, fun b fate => ⟨fun off => if_pos off, fun exists_ => if_neg exists_⟩,
    fun c idle => ⟨fun owed => ?_, fun refused told => ?_, fun refused told k bound owed first => ?_,
      fun refused told same => ?_⟩⟩
  · rw [exec_setConsole]
    exact State.request_refused heard read (ownSetConsole_locked (s := s.heard p) exists_ change)
  · rw [exec_setConsole, State.request_heard heard read, ownSetConsole_set (s := s.heard p) free]
    rfl
  · have ends : Heard s (u8 0) := ⟨free, by decide, operating⟩
    have cuts : Heard s (u8 1) := ⟨free, by decide, operating⟩
    have drain : parseEndConsole (u8 0) = some .drain := by decide
    have cut : parseEndConsole (u8 1) = some .cut := by decide
    refine ⟨fun off => ⟨?_, ?_⟩, fun closing => ?_, fun live => ?_, fun exists_ => ?_, fun m live last reached => ?_⟩
    · rw [exec_endConsoleEnd]
      exact State.request_refused ends drain (ownEndConsole_off (s := s.heard (u8 0)) _ off)
    · rw [exec_endConsoleCut]
      exact State.request_refused cuts cut (ownEndConsole_off (s := s.heard (u8 1)) _ off)
    · rw [exec_endConsoleEnd, State.request_heard ends drain, ownEndConsole_closing (s := s.heard (u8 0)) closing]
      rfl
    · rw [exec_endConsoleEnd, State.request_heard ends drain, ownEndConsole_live (s := s.heard (u8 0)) live]
      rfl
    · rw [exec_endConsoleCut, State.request_heard cuts cut, ownEndConsole_cut (s := s.heard (u8 1)) exists_]
      rfl
    · unfold exec
      refine (State.running_free free _).trans ?_
      rw [if_pos (linkLossDue_live live last reached)]
      rfl
  · have head := removeHead_cons fifo
    rw [exec_player0Key_flying free fifo flying]
    refine ⟨fun idle => ?_, fun f playing perf => ⟨fun none => ?_, fun i bell => ?_⟩⟩
    all_goals refine congrArg _ (State.act_congr ?_)
    · rw [playKey_ignored idle, Body.ignoreKey, head]
    · rw [playKey_muted playing perf none]
      exact congrArg (fun c => Body.send (Body.setCon _ c) .considerHead) head
    · rw [playKey_asked playing perf bell]
      unfold Body.keySounding
      rfl
  · rw [exec_consoleReportSent free sending]
    cases r <;> rfl
  · rw [Body.keyDone, removeHead_eq, ← List.drop_one]
  · rw [transmit_idle idle, nextReport_refused owed]
  · rw [transmit_idle idle, nextReport_state refused told]
    rfl
  · have found : (List.range 96).find? c.lampOwed = some k :=
      find?_range_iff.2 ⟨bound, lampOwed_iff.2 owed, fun j below =>
        mt lampOwed_iff.1 (not_not_intro (first j below))⟩
    rw [transmit_idle idle, nextReport_lamps refused told, found]
    rfl
  · have none : (List.range 96).find? c.lampOwed = none :=
      List.find?_eq_none.2 fun k mem => mt lampOwed_iff.1 (not_not_intro (same k (List.mem_range.1 mem)))
    rw [transmit_idle idle, nextReport_lamps refused told, none, Option.map_none, ← idle]

end Sys2Proof.Machine
end


section
/-! SUPPORT. The Player Bank's launches, grants, drains and stops (R98, R103 to R107, R109, R115 to R119, R122). -/

namespace Sys2Proof.Machine

set_option Elab.async false

/-! ### PLAY-NOW -/

section PlayNow

variable {s : State} {p : List Byte} {named : Option Nat} {kind : EntryKind} {f : PerfFields} {q : Nat}

theorem exec_playNow (p : List Byte) (s : State) :
    exec (.playNow p) s = s.request p parsePlayNow State.ownPlayNow := rfl

theorem playNowRefusal_noTune (missing : kind = .tune ∧ (s.body.slot f.slot).state ≠ .ready) :
    s.playNowRefusal kind f = some .noTune :=
  if_pos missing

theorem playNowRefusal_noHour (absent : kind = .toll ∧ f.strokes = none ∧ s.time.tower = none) :
    s.playNowRefusal kind f = some .notActive := by
  obtain ⟨toll, strokes, tower⟩ := absent
  simp [State.playNowRefusal, toll, strokes, tower]

theorem playNowRefusal_none (found : ¬ (kind = .tune ∧ (s.body.slot f.slot).state ≠ .ready))
    (known : ¬ (kind = .toll ∧ f.strokes = none ∧ s.time.tower = none)) : s.playNowRefusal kind f = none := by
  have known' : ¬ (kind = .toll ∧ f.strokes.isNone = true ∧ s.time.tower.isNone = true) := by
    simpa only [Option.isNone_iff_eq_none] using known
  exact (if_neg found).trans (if_neg known')

theorem ownPlayNow_refused {x : Status} (refusal : s.playNowRefusal kind f = some x) :
    s.ownPlayNow (named, kind, f) = s.refuse x := by
  simp only [State.ownPlayNow, refusal]

theorem ownPlayNow_noPlayer (refusal : s.playNowRefusal kind f = none)
    (player : s.body.playNowPlayer named = none) : s.ownPlayNow (named, kind, f) = s.refuse .noPlayer := by
  simp only [State.ownPlayNow, refusal, player]

/-- R122: the hour whose strokes a toll launched now takes. -/
def State.playNowHour (s : State) : Nat :=
  match s.time.tower with
  | some t => (t.ms + s.body.cal.preRoll) % 86400000 / 3600000
  | none => 0

theorem playNowLaunch_eq (s : State) (q : Nat) (kind : EntryKind) (f : PerfFields) : s.playNowLaunch q kind f =
    { player := q, origin := .playNow, piece := s.body.piece kind f s.playNowHour,
      anchor := some (s.now + 8 * s.body.cal.preRoll), claimKind := f.claimKind,
      priority := f.priority, preemptive := f.preemptive, waitLimit := f.waitLimit,
      policy := f.policy, slack := f.slack, notice := true, lateStart := false } := by
  unfold State.playNowLaunch State.playNowHour TowerTime.hourAfter dayLength
  rfl

theorem ownPlayNow_launch (refusal : s.playNowRefusal kind f = none)
    (player : s.body.playNowPlayer named = some q) :
    s.ownPlayNow (named, kind, f) = (s.act fun e b => (b.launch e
        { player := q, origin := .playNow, piece := b.piece kind f s.playNowHour,
          anchor := some (s.now + 8 * s.body.cal.preRoll), claimKind := f.claimKind,
          priority := f.priority, preemptive := f.preemptive, waitLimit := f.waitLimit,
          policy := f.policy, slack := f.slack, notice := true, lateStart := false }).1).done
      (u8 q ++ u48 (s.now + 8 * s.body.cal.preRoll)) := by
  simp only [State.ownPlayNow, refusal, player, playNowLaunch_eq, State.act]

theorem anyPlayer_none {b : Body} (busy : ∀ q, 1 ≤ q → q ≤ 7 → (b.player q).state ≠ .free) :
    b.anyPlayer = none := by
  cases found : b.anyPlayer with
  | none => rfl
  | some q =>
    obtain ⟨first, last, free, _⟩ := Body.anyPlayer_iff.1 found
    exact absurd free (busy q first last)

theorem playNowPlayer_free {b : Body} (free : (b.player q).state = .free)
    (h : named = some q ∨ (named = none ∧ 1 ≤ q ∧ q ≤ 7 ∧
      ∀ k, 1 ≤ k → k < q → (b.player k).state ≠ .free)) : b.playNowPlayer named = some q := by
  obtain rfl | ⟨rfl, first, last, lower⟩ := h
  · exact if_pos free
  · exact Body.anyPlayer_iff.2 ⟨first, last, free, lower⟩

end PlayNow

/-! ### The launch -/

section Launched

variable {e : Env} {b : Body} {r : Launch}

/-- R103: the launch of a tune whose slot is not READY. -/
abbrev Body.tuneMissing (b : Body) (r : Launch) : Prop :=
  ∃ slot m tr fo tick n, r.piece = .tune slot m tr fo tick n ∧ (b.slot slot).state ≠ .ready

theorem launchRefusal_missing (free : (b.player r.player).state = .free) (missing : b.tuneMissing r) :
    b.launchRefusal r = some .noTune := by
  obtain ⟨slot, m, tr, fo, tick, n, piece, other⟩ := missing
  rw [launchRefusal_free free, piece]
  exact if_pos other

theorem launchRefusal_none (free : (b.player r.player).state = .free) (present : ¬ b.tuneMissing r) :
    b.launchRefusal r = none := by
  rw [launchRefusal_free free]
  split
  next slot m tr fo tick n piece =>
    exact if_neg fun other => present ⟨slot, m, tr, fo, tick, n, piece, other⟩
  · rfl

theorem launch_refused {x : LaunchResult} (refusal : b.launchRefusal r = some x) : b.launch e r = (b, x) := by
  simp only [Body.launch, refusal]

/-- R103: the body whose player a launch has written, with the slot in use. -/
def Body.launchWritten (b : Body) (r : Launch) : Body :=
  let u := b.setPlayer r.player r.player'
  match r.piece with
  | .tune slot _ _ _ _ _ => u.setSlot slot { u.slot slot with users := (u.slot slot).users + 1 }
  | _ => u

theorem launch_accepted (refusal : b.launchRefusal r = none) :
    b.launch e r = (Body.makeClaim e.now (b.launchWritten r) r.player
      { bells := b.launchSet e r.piece, kind := r.claimKind, priority := r.priority,
        preemptive := r.preemptive
        waitLimit := if r.claimKind = .whole then some r.waitLimit else none }, .accepted) := by
  unfold Body.launch
  rw [refusal]
  rfl

end Launched

/-! ### The claim set -/

section ClaimSet

variable {e : Env} {m : MapId} {pitch : Nat}

/-- R104: a bell that is named and may be struck. -/
abbrev Env.playable (e : Env) (y : Option Nat) : Prop := ∃ i, y = some i ∧ (e.bell i).available = true

theorem filter_playable {y : Option Nat} (h : e.playable y) : (y.filter fun i => (e.bell i).available) = y := by
  obtain ⟨i, rfl, available⟩ := h
  simp [available]

theorem filter_unplayable {y : Option Nat} (h : ¬ e.playable y) :
    (y.filter fun i => (e.bell i).available) = none := by
  cases y with
  | none => rfl
  | some i => exact Option.filter_eq_none_iff.2 fun k same available => h ⟨k, same, available⟩

theorem claimedBell_primary (up : e.playable (e.entryOf m pitch).primary) :
    e.claimedBell m pitch = (e.entryOf m pitch).primary := by
  obtain ⟨i, primary, available⟩ := id up
  unfold Env.claimedBell
  dsimp only
  rw [filter_playable up, primary, Option.some_or]

theorem claimedBell_alternate (down : ¬ e.playable (e.entryOf m pitch).primary)
    (up : e.playable (e.entryOf m pitch).alternate) :
    e.claimedBell m pitch = (e.entryOf m pitch).alternate := by
  obtain ⟨i, alternate, available⟩ := id up
  unfold Env.claimedBell
  dsimp only
  rw [filter_unplayable down, filter_playable up, alternate, Option.none_or, Option.some_or]

theorem claimedBell_neither (down : ¬ e.playable (e.entryOf m pitch).primary)
    (downToo : ¬ e.playable (e.entryOf m pitch).alternate) :
    e.claimedBell m pitch = if (e.entryOf m pitch).primary = none then (e.entryOf m pitch).alternate
      else (e.entryOf m pitch).primary := by
  simp only [Env.claimedBell, filter_unplayable down, filter_unplayable downToo, Option.none_or]
  cases (e.entryOf m pitch).primary <;> rfl

theorem claimSet_sorted (pitches : List Int) : (e.claimSet m pitches).Pairwise (· < ·) :=
  List.pairwise_lt_range.filter _

theorem mem_claimSet {pitches : List Int} {i : Nat} : i ∈ e.claimSet m pitches ↔
    i < 56 ∧ ∃ p ∈ pitches, 0 ≤ p ∧ p ≤ 95 ∧ e.claimedBell m p.toNat = some i := by
  simp only [Env.claimSet, List.mem_filter, List.mem_range, List.contains_iff_mem, List.mem_filterMap]
  refine and_congr_right fun _ => exists_congr fun p => and_congr_right fun _ => ?_
  by_cases range : 0 ≤ p ∧ p ≤ 95
  · rw [if_pos range]
    tauto
  · rw [if_neg range]
    tauto

end ClaimSet

/-! ### The drain -/

section Drains

variable {now : Nat} {b : Body} {p : Nat}

/-- R75: the removal event of a strike of this player. -/
def Msg.removes (p : Nat) : Msg → Bool
  | .removal q _ _ _ => q == p
  | _ => false

theorem untaken_none : b.untaken p = [] ↔ b.mail.any (Msg.removes p) = false := by
  simp only [Body.untaken, List.filterMap_eq_nil_iff, List.any_eq_false]
  refine forall₂_congr fun m _ => ?_
  cases m <;> simp [Msg.removes]

/-- R115: the player drains. -/
def Body.draining (b : Body) (p : Nat) : Body := b.modPlayer p fun x =>
  { x with state := .draining, generation := .done, stallReason := none, wake := none }

theorem drain_eq : b.drain now p = if b.queuedCount p = 0 ∧ b.mail.any (Msg.removes p) = false
    then (b.draining p).enterFree now p (drainFate p ((b.draining p).player p)) else b.draining p :=
  if_congr (and_congr_right fun _ => untaken_none) rfl rfl

end Drains

/-! ### Removal events -/

section Removal

variable {e : Env} {b : Body} {p : Nat} {way : Way} {queued : Nat}

/-- R118: the player records that a strike is lost. -/
def Body.strikeLost (b : Body) (p : Nat) (way : Way) : Body :=
  if ((b.player p).state = .playing ∨ (b.player p).state = .draining) ∧ way ≠ .fired then
    b.setPlayer p { b.player p with lost := true } else b

/-- R118: the body before the players woken take their decisions. -/
def Body.removalTaken (e : Env) (b : Body) (p : Nat) (way : Way) (queued : Nat) : Body :=
  if (b.player p).state = .draining ∧ queued = 0 ∧ b.queuedCount p = 0 ∧ b.mail.any (Msg.removes p) = false then
    (b.strikeLost p way).enterFree e.now p (drainFate p ((b.strikeLost p way).player p))
  else b.strikeLost p way

theorem strikeLost_drained : (b.strikeLost p way).drained p ↔
    b.queuedCount p = 0 ∧ b.mail.any (Msg.removes p) = false := by
  rw [← untaken_none]
  unfold Body.strikeLost
  split <;> exact Iff.rfl

theorem takeRemoval_eq : b.takeRemoval e p way queued =
    (b.removalTaken e p way queued).sendFree
      (((b.removalTaken e p way queued).wokenBy p).map .decide) := by
  have taken : b.removalTaken e p way queued =
      if (b.player p).state = .draining ∧ queued = 0 ∧ (b.strikeLost p way).drained p then
        (b.strikeLost p way).enterFree e.now p (drainFate p ((b.strikeLost p way).player p))
      else b.strikeLost p way :=
    if_congr (and_congr_right fun _ => and_congr_right fun _ => strikeLost_drained.symm) rfl rfl
  rw [taken]
  rfl

theorem mem_wokenBy {q : Nat} : q ∈ b.wokenBy p ↔ q < 8 ∧ q ≠ 0 ∧
    ((b.player q).state = .playing ∧ (b.player q).generation = .stalled) ∧
    (q = p ∨ (p ≠ 0 ∧ (b.player q).stallReason = some .cap)) := by
  simp only [Body.wokenBy, Body.capStalled, List.mem_filter, List.mem_range, Bool.or_eq_true, Bool.and_eq_true,
    beq_iff_eq, bne_iff_ne]
  by_cases same : q = p <;> tauto

theorem takeRemoval_order : ∃ (order : List Nat) (d : Nat), order.Nodup ∧
    (∀ q, q ∈ order ↔ q < 8 ∧ q ≠ 0 ∧
      (((b.removalTaken e p way queued).player q).state = .playing ∧
        ((b.removalTaken e p way queued).player q).generation = .stalled) ∧
      (q = p ∨ (p ≠ 0 ∧ ((b.removalTaken e p way queued).player q).stallReason = some .cap))) ∧
    b.takeRemoval e p way queued =
      { b.removalTaken e p way queued with
          mail := order.map Msg.decide ++ (b.removalTaken e p way queued).mail, draws := d } := by
  obtain ⟨order, d, each, mem, sent⟩ := (b.removalTaken e p way queued).sendFree_map .decide
    ((b.removalTaken e p way queued).wokenBy p) (List.nodup_range.filter _)
  exact ⟨order, d, each, fun q => (mem q).trans mem_wokenBy, takeRemoval_eq.trans sent⟩

end Removal

/-! ### STOP-PLAYER -/

section Stops

variable {s : State} {p : List Byte} {q : Nat}

theorem exec_stopPlayerStop (p : List Byte) (s : State) :
    exec (.stopPlayerStop p) s = s.request p parseStopPlayer State.ownStopPlayer := rfl

theorem exec_stopPlayerFinish (p : List Byte) (s : State) :
    exec (.stopPlayerFinish p) s = s.request p parseStopPlayer State.ownStopPlayer := rfl

theorem ownStopPlayer_free {v : StopVariant} (free : (s.body.player q).state = .free) :
    s.ownStopPlayer (q, v) = s.refuse .notActive :=
  if_pos free

theorem ownStopPlayer_stop (busy : (s.body.player q).state ≠ .free) :
    s.ownStopPlayer (q, .stop) = (s.act fun e b => b.stopPlayer e.now q).done [] :=
  if_neg busy

theorem ownStopPlayer_finish (busy : (s.body.player q).state ≠ .free) :
    s.ownStopPlayer (q, .finish) = (s.act fun e b => b.finishPlayer e.now q).done [] :=
  if_neg busy

/-- What a change of a player leaves is the change itself, or nothing where no such player stands. -/
theorem player_modPlayer {b : Body} (p : Nat) (f : Player → Player) :
    (b.modPlayer p f).player p = f (b.player p) ∨ (b.modPlayer p f).player p = b.player p := by
  unfold Body.modPlayer Body.setPlayer Body.player
  by_cases bound : p < b.players.length
  · exact .inl (by simp [bound])
  · exact .inr (by simp [bound])

theorem finishPlayer_eq {now : Nat} {b : Body} :
    b.finishPlayer now q =
      let u := b.setPlayer q { b.player q with finish := true }
      if (b.player q).state = .playing ∧ ((b.player q).perf.bind (·.toll)).isSome then u.drain now q else u := by
  have state : ((b.modPlayer q fun x => { x with finish := true }).player q).state = (b.player q).state := by
    obtain same | same := player_modPlayer (b := b) q fun x => { x with finish := true } <;> rw [same]
  have perf : ((b.modPlayer q fun x => { x with finish := true }).player q).perf = (b.player q).perf := by
    obtain same | same := player_modPlayer (b := b) q fun x => { x with finish := true } <;> rw [same]
  unfold Body.finishPlayer
  dsimp only
  rw [state, perf]
  rfl

end Stops

/-! ### The grant event -/

section Grants

variable {e : Env} {b : Body} {p : Nat} {f : Performance}

/-- R98: the restart instant of a player's claim. -/
def Body.restart (e : Env) (b : Body) (p : Nat) : Nat := (b.claim p).grantInstant.getD e.now + 8 * b.cal.margin

theorem lateStartAnchor_eq (anchor grant margin : Nat) : lateStartAnchor anchor grant margin =
    (if anchor < grant + margin then grant + margin else anchor, decide (anchor < grant + margin)) := by
  have late : (anchor : Int) - (margin : Int) < (grant : Int) ↔ anchor < grant + margin := by omega
  unfold lateStartAnchor
  by_cases h : anchor < grant + margin
  · rw [if_pos (late.2 h), if_pos h, decide_eq_true h]
  · rw [if_neg (mt late.1 h), if_neg h, decide_eq_false h]

theorem takeGrant_other (perf : (b.player p).perf = some f) (other : (b.player p).state ≠ .claiming) :
    b.takeGrant e p = b := by
  unfold Body.takeGrant
  simp only [perf]
  exact if_pos other

theorem takeGrant_console (perf : (b.player p).perf = some f) (claiming : (b.player p).state = .claiming)
    (console : p = 0) :
    b.takeGrant e p = b.setPlayer p { b.player p with state := .playing, generation := .running } := by
  unfold Body.takeGrant
  dsimp only
  rw [perf]
  exact (if_neg (not_not_intro claiming)).trans (if_pos console)

/-- R98, R106: the anchor that a performance starts from. -/
def Body.startAnchor (e : Env) (b : Body) (p : Nat) (f : Performance) : Nat :=
  if f.anchor.getD 0 < b.restart e p then b.restart e p else f.anchor.getD 0

/-- R106: the player that starts, and the next sounding instant of its performance. -/
def Body.started (e : Env) (b : Body) (p : Nat) (f : Performance) : Body :=
  b.setPlayer p { b.player p with
    state := .playing, generation := .running
    perf := some { f with
      anchor := some (b.startAnchor e p f)
      nextSounding := some (b.nextInstant e { f with anchor := some (b.startAnchor e p f) }) }
    lateStart := (b.player p).lateStart || decide (f.anchor.getD 0 < b.restart e p) }

theorem takeGrant_starts (perf : (b.player p).perf = some f) (claiming : (b.player p).state = .claiming)
    (tower : p ≠ 0) :
    b.takeGrant e p = if (b.player p).finish = true ∧ f.toll.isSome = true then (b.started e p f).drain e.now p
      else (b.started e p f).sendFirst (.decide p) := by
  unfold Body.takeGrant
  dsimp only
  rw [perf]
  refine (if_neg (not_not_intro claiming)).trans ((if_neg tower).trans ?_)
  rw [lateStartAnchor_eq]
  rfl

theorem nextInstant_toll {t : Toll} {anchor : Nat} (toll : f.toll = some t) :
    b.nextInstant e { f with anchor := some anchor } = anchor + f.strokeIndex * (8 * t.interval) := by
  unfold Body.nextInstant
  simp only [toll, Option.getD_some]

theorem nextInstant_tune {anchor : Nat} (tune : f.toll = none) :
    b.nextInstant e { f with anchor := some anchor } = b.nextTuneInstant e { f with anchor := some anchor } := by
  unfold Body.nextInstant
  simp only [tune]

end Grants

/-- Settles O50, by the checks, the launch, the grant, the drain and the stop in turn. -/
theorem launchesStopsAndEnds : Obligations.LaunchesStopsAndEnds := by
  refine ⟨fun s p named kind f heard read => ⟨fun missing => ?_, fun absent => ?_, fun found known =>
      ⟨fun q name busy => ?_, fun unnamed busy => ?_, fun q free player => ?_⟩⟩,
    fun e b r => ⟨launch_noPlayer, fun free missing => launch_refused (launchRefusal_missing free missing),
      fun free present => ?_⟩,
    fun e b m pitches pitch => ⟨claimedBell_primary, claimedBell_alternate, claimedBell_neither,
      claimSet_sorted pitches, fun i => mem_claimSet, fun slot tr fo tick n => rfl, fun t => rfl, rfl⟩,
    fun b f hour => ⟨rfl, rfl, fun m tempo => ?_, fun m n tempo ready default => ?_⟩,
    fun e b p f perf => ⟨takeGrant_other perf, takeGrant_console perf, fun claiming tower t toll => ?_,
      fun claiming tower tune => ?_⟩,
    fun now b p fate => ⟨drain_eq, rfl, rfl, rfl⟩,
    fun e b p way queued => takeRemoval_order,
    fun s p q v heard read => ⟨?_, fun free => ?_, fun busy stop => ?_, fun busy finish => ?_⟩⟩
  · rw [exec_playNow]
    exact State.request_refused heard read (ownPlayNow_refused (s := s.heard p) (playNowRefusal_noTune missing))
  · rw [exec_playNow]
    exact State.request_refused heard read (ownPlayNow_refused (s := s.heard p) (playNowRefusal_noHour absent))
  · rw [exec_playNow]
    refine State.request_refused heard read (ownPlayNow_noPlayer (s := s.heard p)
      (playNowRefusal_none found known) ?_)
    rw [name]
    exact if_neg busy
  · rw [exec_playNow]
    refine State.request_refused heard read (ownPlayNow_noPlayer (s := s.heard p)
      (playNowRefusal_none found known) ?_)
    rw [unnamed]
    exact anyPlayer_none busy
  · rw [exec_playNow, State.request_heard heard read, ownPlayNow_launch (s := s.heard p)
      (playNowRefusal_none found known) (playNowPlayer_free free player)]
    rfl
  · rw [launch_accepted (launchRefusal_none free present)]
    obtain ⟨player, origin, piece, anchor, claimKind, priority, preemptive, waitLimit, policy, slack, notice, late⟩ := r
    cases piece <;> rfl
  · unfold Body.tickPeriod
    rw [tempo]
  · unfold Body.tickPeriod
    rw [tempo, default]
    exact if_pos ready
  · have finishes : (b.player p).finish = true ∧ f.toll.isSome = true ↔ (b.player p).finish = true :=
      and_iff_left (toll ▸ rfl)
    rw [takeGrant_starts perf claiming tower, Body.started, nextInstant_toll toll]
    exact if_congr finishes rfl rfl
  · rw [takeGrant_starts perf claiming tower, Body.started, nextInstant_tune tune, if_neg (by simp [tune])]
    rfl
  · rw [exec_stopPlayerStop, exec_stopPlayerFinish]
  · rw [exec_stopPlayerStop]
    exact State.request_refused heard read (ownStopPlayer_free (s := s.heard p) free)
  · subst stop
    rw [exec_stopPlayerStop, State.request_heard heard read, ownStopPlayer_stop (s := s.heard p) busy]
    rfl
  · subst finish
    rw [exec_stopPlayerFinish, State.request_heard heard read, ownStopPlayer_finish (s := s.heard p) busy]
    simp only [finishPlayer_eq]
    rfl

end Sys2Proof.Machine
end


section
/-! SUPPORT. The Claim Arbiter: making a claim, grants, aborts, releases and re-examination (R84 to R96). -/

namespace Sys2Proof.Machine

set_option Elab.async false

/-! ### Deadlines and wakes -/

section Deadlines

variable {s : State} {p d : Nat}

theorem exec_claimDeadline (free : s.rst.held = false) (pending : (s.body.claim p).state = .pendingClaim)
    (deadline : (s.body.claim p).deadline = some d) (reached : d ≤ s.now) :
    exec (.claimDeadline p) s =
      .next (s.act fun e b => (b.abandonClaim p).enterFree e.now p .claimTimeout) := by
  have due : s.claimDue p = true := by simp [State.claimDue, State.isReached, pending, deadline, reached]
  unfold exec
  refine (State.running_free free _).trans ?_
  rw [if_pos due]

theorem exec_playerWake (free : s.rst.held = false) (playing : (s.body.player p).state = .playing)
    (stalled : (s.body.player p).generation = .stalled) (wake : (s.body.player p).wake = some d)
    (reached : d ≤ s.now) : exec (.playerWake p) s = .next (s.act fun e b => b.takeDecision e p) := by
  have due : s.wakeDue p = true := by simp [State.wakeDue, State.isReached, playing, stalled, wake, reached]
  unfold exec
  refine (State.running_free free _).trans ?_
  rw [if_pos due]

end Deadlines

/-! ### Making a claim -/

section Making

variable {now : Nat} {b : Body} {p : Nat} {c : ClaimBody}

/-- R85: the bell is free, or the claim may take it from its holder. -/
abbrev Body.takes (b : Body) (c : ClaimBody) (i : Nat) : Prop :=
  b.holder i = none ∨ ∃ h ∈ b.holder i, c.preemptive = true ∧ c.priority < b.claimPriority h

theorem canTake_iff {i : Nat} : b.canTake c i = true ↔ b.takes c i := by
  unfold Body.canTake Body.takes
  cases b.holder i <;> simp

theorem all_canTake : c.bells.all (b.canTake c) = true ↔ ∀ i ∈ c.bells, b.takes c i := by
  rw [List.all_eq_true]
  exact forall₂_congr fun _ _ => canTake_iff

/-- R84: the record of a claim just made. -/
def Body.claimMade (now : Nat) (b : Body) (p : Nat) (c : ClaimBody) : Body :=
  b.setClaim p { body := some c, deadline := none, claimInstant := some now, grantInstant := none,
                 state := .noClaim }

/-- R94: a grant and the passes that follow it. -/
def Body.granted (now : Nat) (b : Body) (p : Nat) (g : List Nat) : Body :=
  Body.reexamine now 9 (b.grant now p g).1 (b.grant now p g).2

theorem makeClaim_empty (none : c.bells = []) :
    b.makeClaim now p c = (b.claimMade now p c).grantNothing now p .granted :=
  if_pos (by rw [none]; rfl)

theorem makeClaim_whole (some_ : c.bells ≠ []) (whole : c.kind = .whole) :
    b.makeClaim now p c = (b.claimMade now p c).claimWhole now p c := by
  refine (if_neg (by simpa using some_)).trans ?_
  rw [whole]
  rfl

theorem makeClaim_partial (some_ : c.bells ≠ []) (part : c.kind = .partialClaim) :
    b.makeClaim now p c = (b.claimMade now p c).claimPartial now p c := by
  refine (if_neg (by simpa using some_)).trans ?_
  rw [part]
  rfl

theorem claimWhole_takes (all : ∀ i ∈ c.bells, b.takes c i) : b.claimWhole now p c = b.granted now p c.bells :=
  if_pos (all_canTake.2 all)

theorem claimWhole_waits {w : Nat} (blocked : ¬ ∀ i ∈ c.bells, b.takes c i) (limit : c.waitLimit = some w)
    (positive : 0 < w) :
    b.claimWhole now p c =
      b.setClaim p { b.claim p with state := .pendingClaim, deadline := some (now + 8000 * w) } := by
  refine (if_neg (mt all_canTake.1 blocked)).trans ?_
  rw [limit]
  exact if_pos positive

theorem claimWhole_abandoned (blocked : ¬ ∀ i ∈ c.bells, b.takes c i)
    (limit : c.waitLimit = none ∨ c.waitLimit = some 0) :
    b.claimWhole now p c = (b.abandonClaim p).enterFree now p .claimTimeout := by
  refine (if_neg (mt all_canTake.1 blocked)).trans ?_
  obtain none | zero := limit
  · rw [none]
    rfl
  · rw [zero]
    rfl

/-- R86: the bells of a PARTIAL claim that it may take are granted, and it waits for the others. -/
theorem claimPartial_eq {dec : DecidablePred (b.takes c)} {decNot : DecidablePred fun i => ¬ b.takes c i} :
    let g := c.bells.filter fun i => @decide (b.takes c i) (dec i)
    let v := (c.bells.filter fun i => @decide (¬ b.takes c i) (decNot i)).foldl (fun t i => t.joinWaiting p i) b
    b.claimPartial now p c = if g = [] then v.grantNothing now p .partGranted else v.granted now p g := by
  intro g v
  have takes : c.bells.filter (b.canTake c) = g :=
    List.filter_congr fun i _ => Bool.eq_iff_iff.2 (by rw [canTake_iff, decide_eq_true_iff])
  have waits : (c.bells.filter fun i => !b.canTake c i) =
      c.bells.filter fun i => @decide (¬ b.takes c i) (decNot i) :=
    List.filter_congr fun i _ => Bool.eq_iff_iff.2
      (by rw [Bool.not_eq_true', ← Bool.not_eq_true, canTake_iff, decide_eq_true_iff])
  unfold Body.claimPartial
  rw [takes, waits]
  exact if_congr List.isEmpty_iff rfl rfl

end Making

/-! ### Grants -/

section Grant

variable {now : Nat} {b : Body} {c h i : Nat} {g : List Nat}

theorem isWhole_iff : b.isWhole h = true ↔ (b.claim h).body.map (·.kind) = some .whole := by
  rw [Body.isWhole]
  cases (b.claim h).body.map (·.kind) with
  | none => simp
  | some k => cases k <;> simp

theorem bellsWaited_empty : (b.bellsWaited c).isEmpty = true ↔ ∀ i ∈ List.range 56, c ∉ b.waitingOn i := by
  simp [Body.bellsWaited]

/-- R87, step 1: the TEST strikes on the free bells are withdrawn. -/
def Body.testsWithdrawn (b : Body) (g : List Nat) : Body :=
  g.foldl (fun t i => if b.holder i = none
    then t.removeAll .withdrawn fun k => k.player == none && k.bell == i else t) b

/-- R87, step 2: the bells are taken from their holders. -/
def Body.bellsTaken (b : Body) (g : List Nat) : Body :=
  g.foldl (fun t i => match b.holder i with
    | some h => t.takeFrom h i
    | none => t) b

/-- R87, step 3: the bells are the claimant's. -/
def Body.bellsHanded (b : Body) (c : Nat) (g : List Nat) : Body :=
  b.setClaims { b.claims with
    holders := g.foldl (fun l i => l.set i (some c)) b.claims.holders
    waiting := g.foldl (fun l i => l.modify i fun w => w.filter (· != c)) b.claims.waiting }

/-- R87, step 4: the record of the claim. -/
def Body.grantRecorded (now : Nat) (b : Body) (c : Nat) : Body :=
  b.setClaim c { b.claim c with
    state := if (b.claim c).body.map (·.kind) = some .whole ∨ (∀ i ∈ List.range 56, c ∉ b.waitingOn i)
      then .granted else .partGranted
    deadline := none
    grantInstant := some ((b.claim c).grantInstant.getD now) }

/-- R87: the body before the WHOLE holders that lost a bell are aborted. -/
def Body.grantGiven (now : Nat) (b : Body) (c : Nat) (g : List Nat) : Body :=
  let b4 := (((b.testsWithdrawn g).bellsTaken g).bellsHanded c g).grantRecorded now c
  let b5 := Body.send (b4.setClaims { b4.claims with
    rotation := b4.claims.rotation.filter (· != c) ++ [c] }) (.grant c)
  if c = 0 then g.foldl (fun t i => t.send (.holding i)) b5 else b5

/-- R89: the WHOLE holders that lose a bell to a grant. -/
def Body.losers (b : Body) (g : List Nat) : List Nat :=
  (List.range 8).filter fun h => b.isWhole h && g.any fun i => b.holder i == some h

theorem losers_sorted : (b.losers g).Pairwise (· < ·) := List.pairwise_lt_range.filter _

theorem mem_losers : h ∈ b.losers g ↔ h < 8 ∧ (b.claim h).body.map (·.kind) = some .whole ∧
    ∃ i ∈ g, b.holder i = some h := by
  rw [Body.losers, List.mem_filter, List.mem_range, Bool.and_eq_true, isWhole_iff]
  simp

theorem giveBells_eq : b.giveBells now c g = (b.bellsHanded c g).grantRecorded now c := by
  have state (u : Body) : (if u.isWhole c || (u.bellsWaited c).isEmpty then ClaimState.granted else .partGranted) =
      if (u.claim c).body.map (·.kind) = some .whole ∨ (∀ i ∈ List.range 56, c ∉ u.waitingOn i)
      then .granted else .partGranted :=
    if_congr (by rw [Bool.or_eq_true, isWhole_iff, bellsWaited_empty]) rfl rfl
  unfold Body.giveBells Body.grantRecorded
  rw [← state]
  rfl

theorem withdrawTests_eq :
    g.foldl (fun b' i => if (b.holder i).isNone then b'.withdrawTest i else b') b = b.testsWithdrawn g := by
  have step : (fun (t : Body) i => if (b.holder i).isNone then t.withdrawTest i else t) = fun t i =>
      if b.holder i = none then t.removeAll .withdrawn fun k => k.player == none && k.bell == i else t :=
    funext₂ fun t i => if_congr Option.isNone_iff_eq_none rfl rfl
  rw [step, Body.testsWithdrawn]

theorem grant_eq : b.grant now c g =
    (b.losers g).foldl (fun r h => ((r.1.abort h).1, r.2 ++ (r.1.abort h).2)) (b.grantGiven now c g, []) := by
  unfold Body.grant
  rw [withdrawTests_eq]
  dsimp only
  rw [giveBells_eq]
  rfl

end Grant

/-! ### A bell taken, an abort, a release -/

section Losing

variable {now : Nat} {b : Body} {h i j q : Nat} {l : List Nat}

theorem takeFrom_whole
    (whole : ((b.removeAll .withdrawn fun k => k.player == some h && k.bell == i).claim h).body.map (·.kind) =
      some .whole) :
    b.takeFrom h i = (b.removeAll .withdrawn fun k => k.player == some h && k.bell == i).raise .preempted := by
  have isWhole : (b.withdrawOnBell h i).isWhole h = true := isWhole_iff.2 whole
  exact congrArg (Body.raise · .preempted) (if_pos isWhole)

theorem takeFrom_partial
    (part : ((b.removeAll .withdrawn fun k => k.player == some h && k.bell == i).claim h).body.map (·.kind) ≠
      some .whole) :
    let u := b.removeAll .withdrawn fun k => k.player == some h && k.bell == i
    let v := (u.joinWaiting h i).setClaim h { (u.joinWaiting h i).claim h with state := .partGranted }
    b.takeFrom h i = (if h = 0 then v.send (.holding i) else v).raise .preempted := by
  have notWhole : ¬ (b.withdrawOnBell h i).isWhole h = true := mt isWhole_iff.1 part
  exact congrArg (Body.raise · .preempted) (if_neg notWhole)

/-- R89: the event of a strike of this player that was discarded. -/
def Msg.discards (h : Nat) : Msg → Bool
  | .removal q way _ _ => q == h && (way == .late || way == .blocked || way == .unavailable)
  | _ => false

theorem untaken_any : ((b.untaken h).any fun way => way != .fired && way != .withdrawn) =
    b.mail.any (Msg.discards h) := by
  rw [Body.untaken, List.any_filterMap]
  refine congrArg b.mail.any (funext fun m => ?_)
  cases m with
  | removal q way queued total =>
    by_cases same : q = h
    · cases way <;> simp [Msg.discards, same]
    · simp [Msg.discards, same]
  | _ => rfl

theorem takeDiscards_eq : b.takeDiscards h =
    b.modPlayer h fun x => { x with lost := x.lost || b.mail.any (Msg.discards h) } := by
  rw [← untaken_any]
  rfl

theorem release_none (none : (b.claim h).state = .noClaim) : b.release now h = b := if_pos none

theorem release_made (made : (b.claim h).state ≠ .noClaim) :
    b.release now h = Body.reexamine now 9 (b.clearClaim h).1 (b.clearClaim h).2 := if_neg made

theorem waitingOn_joinWaiting : (b.joinWaiting h i).waitingOn j =
    if j = i ∧ i < b.claims.waiting.length then addMember h (b.waitingOn i) else b.waitingOn j := by
  have at_ : (b.joinWaiting h i).waitingOn j = ((b.claims.waiting.modify i (addMember h))[j]?).getD [] := by
    simp [Body.waitingOn, Body.joinWaiting, Body.setClaims, List.getD_eq_getElem?_getD]
  rw [at_, List.getElem?_modify]
  by_cases same : i = j
  · subst same
    by_cases bound : i < b.claims.waiting.length
    · simp [Body.waitingOn, List.getD_eq_getElem?_getD, bound]
    · simp [Body.waitingOn, List.getD_eq_getElem?_getD, bound]
  · simp [Body.waitingOn, List.getD_eq_getElem?_getD, same, Ne.symm same]

theorem mem_addMember : q ∈ addMember h l ↔ q = h ∨ q ∈ l := by
  induction l with
  | nil => simp [addMember]
  | cons x rest ih =>
    rw [addMember]
    split
    · rw [List.mem_cons, ih, List.mem_cons]
      tauto
    · split
      next same =>
        subst same
        simp
      · exact List.mem_cons

end Losing

/-! ### Re-examination -/

section Reexamine

variable {now n p : Nat} {b : Body} {f : List Nat} {c : ClaimBody}

theorem insertBy_perm (before : Nat → Nat → Bool) (p : Nat) (l : List Nat) :
    (insertBy before p l).Perm (p :: l) := by
  induction l with
  | nil => exact List.Perm.refl _
  | cons q rest ih =>
    rw [insertBy]
    split
    · exact (ih.cons q).trans (List.Perm.swap p q rest)
    · exact List.Perm.refl _

theorem insertBy_sorted {before : Nat → Nat → Bool} {R : Nat → Nat → Prop} {l : List Nat}
    (trans : ∀ {x y z}, R x y → R y z → R x z) (earlier : ∀ {x y}, before x y = true → R x y)
    (later : ∀ {x y}, before x y = false → R y x) (p : Nat) (sorted : l.Pairwise R) :
    (insertBy before p l).Pairwise R := by
  induction l with
  | nil => exact List.pairwise_singleton _ _
  | cons q rest ih =>
    obtain ⟨head, tail⟩ := List.pairwise_cons.1 sorted
    rw [insertBy]
    split
    next first =>
      refine List.pairwise_cons.2 ⟨fun x mem => ?_, ih tail⟩
      obtain rfl | mem := List.mem_cons.1 ((insertBy_perm before p rest).mem_iff.1 mem)
      · exact earlier first
      · exact head x mem
    next second =>
      have before_ : R p q := later (Bool.eq_false_iff.2 second)
      refine List.pairwise_cons.2 ⟨fun x mem => ?_, sorted⟩
      obtain rfl | mem := List.mem_cons.1 mem
      · exact before_
      · exact trans before_ (head x mem)

theorem foldr_insertBy_perm (before : Nat → Nat → Bool) (l : List Nat) : (l.foldr (insertBy before) []).Perm l := by
  induction l with
  | nil => exact List.Perm.refl _
  | cons p rest ih => exact (insertBy_perm before p _).trans (ih.cons p)

/-- R93: the order of the pass. -/
abbrev Body.notBehind (b : Body) (p q : Nat) : Prop := b.claimPriority p < b.claimPriority q ∨
  (b.claimPriority p = b.claimPriority q ∧
    b.claims.rotation.findIdx (· == p) ≤ b.claims.rotation.findIdx (· == q))

theorem ahead_iff {q : Nat} : b.ahead p q = true ↔ b.claimPriority p < b.claimPriority q ∨
    (b.claimPriority p = b.claimPriority q ∧
      b.claims.rotation.findIdx (· == p) < b.claims.rotation.findIdx (· == q)) := by
  simp [Body.ahead, Body.place]

theorem foldr_ahead_sorted (l : List Nat) : (l.foldr (insertBy b.ahead) []).Pairwise b.notBehind := by
  induction l with
  | nil => exact List.Pairwise.nil
  | cons p rest ih =>
    refine insertBy_sorted (fun first second => ?_) (fun before => ?_) (fun behind => ?_) p ih
    · omega
    · have := ahead_iff.1 before
      omega
    · have := mt ahead_iff.2 (Bool.eq_false_iff.1 behind)
      omega

/-- R93: the claim waits for a bell of these. -/
abbrev Body.waitsFor (b : Body) (f : List Nat) (p : Nat) : Prop :=
  ((b.claim p).state = .pendingClaim ∧ ∃ c ∈ (b.claim p).body, ∃ i ∈ c.bells, i ∈ f) ∨
    ((b.claim p).state = .partGranted ∧ ∃ i ∈ f, p ∈ b.waitingOn i)

theorem candidates_perm : (b.candidates f).Perm ((List.range 8).filter fun p => decide (b.waitsFor f p)) := by
  have waits : ((List.range 8).filter fun p => decide (b.waitsFor f p)) = (List.range 8).filter fun p =>
      match (b.claim p).state with
      | .pendingClaim => (((b.claim p).body.map (·.bells)).getD []).any f.contains
      | .partGranted => f.any fun i => (b.waitingOn i).contains p
      | _ => false := by
    refine List.filter_congr fun p _ => Bool.eq_iff_iff.2 ?_
    rw [decide_eq_true_iff]
    cases state : (b.claim p).state <;> simp [Body.waitsFor, state]
    cases (b.claim p).body <;> simp
  rw [waits]
  exact foldr_insertBy_perm _ _

theorem mem_candidates : p ∈ b.candidates f ↔ p < 8 ∧ b.waitsFor f p := by
  rw [candidates_perm.mem_iff, List.mem_filter, List.mem_range, decide_eq_true_iff]

theorem candidates_nodup : (b.candidates f).Nodup :=
  candidates_perm.nodup_iff.2 (List.nodup_range.filter _)

theorem candidates_sorted : (b.candidates f).Pairwise b.notBehind := foldr_ahead_sorted _

theorem reexamine_some (some_ : f ≠ []) : Body.reexamine now (n + 1) b f =
    Body.reexamine now n (b.pass now f).1 (b.pass now f).2 := by
  rw [Body.reexamine]
  exact if_neg (by simpa using some_)

theorem considerCandidate_whole (body : (b.claim p).body = some c) (whole : c.kind = .whole) :
    Body.considerCandidate now f b p =
      if (b.claim p).state = .pendingClaim ∧ c.bells.all (b.canTake c) then b.grant now p c.bells
      else (b, []) := by
  unfold Body.considerCandidate
  rw [body]
  dsimp only
  rw [whole]

theorem considerCandidate_partial (body : (b.claim p).body = some c) (part : c.kind = .partialClaim)
    {dec : DecidablePred fun i => p ∈ b.waitingOn i ∧ b.holder i = none} :
    let g := f.filter fun i => @decide (p ∈ b.waitingOn i ∧ b.holder i = none) (dec i)
    Body.considerCandidate now f b p = if g = [] then (b, []) else b.grant now p g := by
  intro g
  have same : (f.filter fun i => (b.waitingOn i).contains p && (b.holder i).isNone) = g :=
    List.filter_congr fun i _ => Bool.eq_iff_iff.2 (by rw [decide_eq_true_iff]; simp)
  unfold Body.considerCandidate
  rw [body]
  dsimp only
  rw [part]
  dsimp only
  rw [same]
  exact if_congr List.isEmpty_iff rfl rfl

end Reexamine

end Sys2Proof.Machine
end


section
/-! SUPPORT. Generation (R107 to R114), and the claims it plays under. -/

namespace Sys2Proof.Machine

set_option Elab.async false

/-! ### What a record or a stroke asks for -/

section Records

variable {e : Env} {b : Body} {p i : Nat} {f : Performance} {note : NoteRecord} {sounding : Nat}

/-- R108: a record or stroke is read. -/
def Body.recordRead (b : Body) (p : Nat) : Body := b.modPlayer p fun y => { y with recordsRead := y.recordsRead + 1 }

/-- R110: the bell that a record's pitch sounds. -/
def Body.bellFor (e : Env) (b : Body) (p : Nat) (f : Performance) (note : NoteRecord) : Option Nat :=
  let pitch : Int := note.pitch + f.transposition
  if 0 ≤ pitch ∧ pitch ≤ 95 then b.lookup e p (f.map.getD .a) pitch.toNat else none

theorem strikeRecord_rest (rest : note.force = 0) : b.strikeRecord e p f note sounding = b := if_pos rest

theorem strikeRecord_muted (sounds : note.force ≠ 0) (none : b.bellFor e p f note = none) :
    b.strikeRecord e p f note sounding = b.modPlayer p Player.mute := by
  refine (if_neg sounds).trans ?_
  unfold Body.bellFor at none
  dsimp only at none ⊢
  rw [none]

theorem strikeRecord_struck (sounds : note.force ≠ 0) (bell : b.bellFor e p f note = some i) :
    b.strikeRecord e p f note sounding = (b.askAdmission e p
      { bell := i, force := (max 1 (min 15 ((note.force : Int) + f.forceOffset))).toNat,
        sounding := sounding, origin := .tune, player := some p,
        tunePosition := some (f.passNumber.toNat, f.recordIndex), policy := f.policy,
        slack := 8 * f.slack }).1 := by
  refine (if_neg sounds).trans ?_
  unfold Body.bellFor at bell
  dsimp only at bell ⊢
  rw [bell]
  rfl

/-- R110: what follows a record that has become the body `u`. -/
theorem readRecord_of {u : Body} (struck : (b.recordRead p).strikeRecord e p f
      (noteOf (e.memory.recordBytes (b.slot (f.slot.getD 0)).blocks f.recordIndex)) (b.nextTuneInstant e f) = u) :
    b.readRecord e p f =
    let x := b.slot (f.slot.getD 0)
    let note := noteOf (e.memory.recordBytes x.blocks f.recordIndex)
    let f' := { f with tickPosition := f.tickPosition + note.delay, recordIndex := f.recordIndex + 1 }
    if x.length.getD 0 ≤ f.recordIndex + 1 then u.passEnd e p f'
    else (u.setPerf p { f' with nextSounding := some (u.nextTuneInstant e f') }).sendFirst (.decide p) := by
  subst struck
  rfl

theorem passEnd_again (goes : (b.player p).finish = false) (left : 0 < f.passesRemaining) :
    b.passEnd e p f =
      let x := b.slot (f.slot.getD 0)
      let span := x.ticks.getD 0 + x.passGap.getD 0
      let f' := { f with
        anchor := some (f.anchor.getD 0 + (if span = 0 then 1 else span) * f.tickPeriod.getD 0)
        passesRemaining := if f.passesRemaining = 255 then 255 else f.passesRemaining - 1
        passNumber := f.passNumber + 1, recordIndex := 0, tickPosition := 0 }
      (b.setPerf p { f' with nextSounding := some (b.nextTuneInstant e f') }).sendFirst (.decide p) :=
  if_pos (by simp [goes, left])

theorem passEnd_drains (h : (b.player p).finish = true ∨ f.passesRemaining = 0) :
    b.passEnd e p f = (b.setPerf p f).drain e.now p :=
  if_neg (by
    obtain finish | none := h
    · simp [finish]
    · simp [none])

end Records

/-! ### A toll's stroke -/

section Strokes

variable {e : Env} {b : Body} {p : Nat} {f : Performance} {t : Toll}

theorem strikable_iff {i : Nat} : (b.strikable e p (some i)).isSome = true ↔
    (e.bell i).available = true ∧ b.holder i = some p := by
  simp [Body.strikable]

theorem nextInstant_of_toll (toll : f.toll = some t) :
    b.nextInstant e f = f.anchor.getD 0 + f.strokeIndex * (8 * t.interval) := by
  unfold Body.nextInstant
  rw [toll]

/-- R112: the stroke itself, struck or muted. -/
def Body.stroke (e : Env) (b : Body) (p : Nat) (f : Performance) (t : Toll) : Body :=
  if (e.bell t.bell).available = true ∧ b.holder t.bell = some p then
    ((b.recordRead p).askAdmission e p
      { bell := t.bell, force := t.force, origin := .toll, player := some p, tunePosition := none,
        sounding := f.anchor.getD 0 + f.strokeIndex * (8 * t.interval), policy := f.policy,
        slack := 8 * f.slack }).1
  else (b.recordRead p).modPlayer p Player.mute

theorem strokeToll_eq (toll : f.toll = some t) : b.strokeToll e p f t =
    if t.strokes ≤ f.strokeIndex + 1 ∨ ((b.stroke e p f t).player p).finish = true then
      ((b.stroke e p f t).setPerf p { f with strokeIndex := f.strokeIndex + 1 }).drain e.now p
    else ((b.stroke e p f t).setPerf p { f with
      strokeIndex := f.strokeIndex + 1
      nextSounding := some (f.anchor.getD 0 + (f.strokeIndex + 1) * (8 * t.interval)) }).sendFirst
        (.decide p) := by
  have struck : b.stroke e p f t =
      if ((b.recordRead p).strikable e p (some t.bell)).isSome then
        ((b.recordRead p).askAdmission e p
          { bell := t.bell, force := t.force, sounding := b.nextInstant e f, origin := .toll,
            player := some p, tunePosition := none, policy := f.policy, slack := 8 * f.slack }).1
      else (b.recordRead p).modPlayer p Player.mute := by
    rw [nextInstant_of_toll toll]
    exact if_congr strikable_iff.symm rfl rfl
  have next (u : Body) : u.nextInstant e { f with strokeIndex := f.strokeIndex + 1 } =
      f.anchor.getD 0 + (f.strokeIndex + 1) * (8 * t.interval) :=
    nextInstant_of_toll (f := { f with strokeIndex := f.strokeIndex + 1 }) toll
  rw [← next (b.stroke e p f t), struck]
  rfl

end Strokes

/-! ### Lookups -/

section Lookups

variable {e : Env} {b : Body} {p : Nat} {m : MapId} {pitch : Nat}

/-- R111: the bell is available and held. -/
abbrev Body.strikes (e : Env) (b : Body) (p i : Nat) : Prop := (e.bell i).available = true ∧ b.holder i = some p

theorem strikable_some {i : Nat} (h : b.strikes e p i) : b.strikable e p (some i) = some i := by
  obtain ⟨available, held⟩ := h
  simp [Body.strikable, available, held]

theorem strikable_none {y : Option Nat} (h : ∀ i, y = some i → ¬ b.strikes e p i) :
    b.strikable e p y = none := by
  cases y with
  | none => rfl
  | some i =>
    refine Option.not_isSome_iff_eq_none.1 fun some_ => h i rfl (strikable_iff.1 some_)

theorem lookup_primary {i : Nat} (primary : (e.entryOf m pitch).primary = some i) (h : b.strikes e p i) :
    b.lookup e p m pitch = some i := by
  unfold Body.lookup
  dsimp only
  rw [primary, strikable_some h, Option.some_or]

theorem lookup_alternate {i : Nat} (first : ∀ i, (e.entryOf m pitch).primary = some i → ¬ b.strikes e p i)
    (alternate : (e.entryOf m pitch).alternate = some i) (h : b.strikes e p i) :
    b.lookup e p m pitch = some i := by
  unfold Body.lookup
  dsimp only
  rw [strikable_none first, alternate, strikable_some h, Option.none_or]

theorem lookup_none (first : ∀ i, (e.entryOf m pitch).primary = some i → ¬ b.strikes e p i)
    (second : ∀ i, (e.entryOf m pitch).alternate = some i → ¬ b.strikes e p i) :
    b.lookup e p m pitch = none := by
  unfold Body.lookup
  dsimp only
  rw [strikable_none first, strikable_none second, Option.none_or]

end Lookups

/-! ### A generation decision -/

section Decisions

variable {e : Env} {b : Body} {p : Nat} {f : Performance}

theorem takeDecision_stalls {reason : StallReason} (tower : p ≠ 0) (perf : (b.player p).perf = some f)
    (playing : (b.player p).state = .playing) (goes : (b.player p).generation ≠ .done)
    (stall : b.stallReason e p (f.nextSounding.getD 0) = some reason) :
    b.takeDecision e p = b.setPlayer p { b.player p with
      generation := .stalled, stallReason := some reason
      wake := if reason = .horizon then some (f.nextSounding.getD 0 - b.sched.horizon) else none } := by
  unfold Body.takeDecision
  simp only [perf]
  rw [if_neg (by simp [tower, playing, goes])]
  simp only [stall]

theorem takeDecision_goes (tower : p ≠ 0) (perf : (b.player p).perf = some f)
    (playing : (b.player p).state = .playing) (goes : (b.player p).generation ≠ .done)
    (run : b.stallReason e p (f.nextSounding.getD 0) = none) :
    let u := b.setPlayer p { b.player p with generation := .running, stallReason := none, wake := none }
    b.takeDecision e p = match f.toll with
      | some t => u.strokeToll e p f t
      | none => u.readRecord e p f := by
  unfold Body.takeDecision
  dsimp only
  rw [perf]
  refine (if_neg (by simp [tower, playing, goes])).trans ?_
  simp only [run] <;> rfl

end Decisions

/-- R87: a grant, by the holders that lose a bell. -/
theorem grant_losers (now : Nat) (b : Body) (c : Nat) (g : List Nat) :
    ∃ losers : List Nat, losers.Pairwise (· < ·) ∧
      (∀ h, h ∈ losers ↔ h < 8 ∧ (b.claim h).body.map (·.kind) = some .whole ∧
        ∃ i ∈ g, b.holder i = some h) ∧
      b.grant now c g = losers.foldl (fun r h => ((r.1.abort h).1, r.2 ++ (r.1.abort h).2))
        (b.grantGiven now c g, []) :=
  ⟨b.losers g, losers_sorted, fun _ => mem_losers, grant_eq⟩

/-- Settles O49, by the making of a claim, its grant, its end, and the decisions of generation. -/
theorem claimsAndGeneration : Obligations.ClaimsAndGeneration := by
  refine ⟨fun s p d free pending deadline reached => exec_claimDeadline free pending deadline reached,
    fun s p w free playing stalled wake reached => exec_playerWake free playing stalled wake reached,
    fun now b p c => ⟨fun none => makeClaim_empty none, fun some_ whole all => ?_,
      fun some_ whole blocked => ⟨fun w limit positive => ?_, fun limit => ?_⟩, fun some_ part => ?_⟩,
    fun now b c g => grant_losers now b c g,
    fun now b h i => ⟨takeFrom_whole, takeFrom_partial, ?_, rfl, release_none, release_made,
      fun j => waitingOn_joinWaiting, fun l q => mem_addMember⟩,
    fun now n b f => ⟨fun p => mem_candidates, candidates_nodup, candidates_sorted, rfl, fun p => rfl, rfl,
      reexamine_some⟩,
    fun now b f p c body => ⟨fun whole => ⟨fun pending all => ?_, fun stays => ?_⟩,
      fun part => ⟨fun none => ?_, fun some_ => ?_⟩⟩,
    fun x y z => rfl,
    fun e b p f => ⟨rfl, fun rest => ?_, fun sounds none => ?_, fun i sounds bell => ?_, passEnd_again,
      passEnd_drains⟩,
    fun e b p f t toll => ⟨fun strikes => ?_, fun silent => ?_⟩,
    fun e b p r => ?_,
    fun e b p m pitch => ⟨fun i primary h => lookup_primary primary h, fun first =>
      ⟨fun i alternate h => lookup_alternate first alternate h, lookup_none first⟩⟩,
    fun e b p f tower perf playing goes => ⟨fun far => ?_, fun near full => ?_, fun near room capped => ?_,
      fun near room free => ?_⟩⟩
  · exact (makeClaim_whole some_ whole).trans (claimWhole_takes all)
  · exact (makeClaim_whole some_ whole).trans (claimWhole_waits blocked limit positive)
  · exact (makeClaim_whole some_ whole).trans (claimWhole_abandoned blocked limit)
  · exact (makeClaim_partial some_ part).trans claimPartial_eq
  · unfold Body.abort
    rw [takeDiscards_eq]
    rfl
  · exact (considerCandidate_whole body whole).trans (if_pos ⟨pending, all_canTake.2 all⟩)
  · exact (considerCandidate_whole body whole).trans (if_neg fun ⟨pending, all⟩ =>
      stays.elim (· pending) (· (all_canTake.1 all)))
  · exact (considerCandidate_partial body part).trans (if_pos none)
  · exact (considerCandidate_partial body part).trans (if_neg some_)
  · exact readRecord_of (strikeRecord_rest rest)
  · exact readRecord_of (strikeRecord_muted sounds none)
  · exact readRecord_of (strikeRecord_struck sounds bell)
  · rw [strokeToll_eq toll, Body.stroke, if_pos strikes]
    rfl
  · rw [strokeToll_eq toll, Body.stroke, if_neg silent]
    rfl
  · intro a
    refine congrArg (fun count => (a.1.modPlayer p count, a.2)) (funext fun x => ?_)
    cases a.2 with
    | admitted _ _ _ _ => rfl
    | refused reason => cases reason <;> rfl
  · exact takeDecision_stalls tower perf playing goes (if_pos far)
  · exact takeDecision_stalls tower perf playing goes ((if_neg near).trans (if_pos full))
  · exact takeDecision_stalls tower perf playing goes ((if_neg near).trans ((if_neg room).trans (if_pos capped)))
  · exact takeDecision_goes tower perf playing goes ((if_neg near).trans ((if_neg room).trans (if_neg free)))

end Sys2Proof.Machine
end


section
/-! SUPPORT. What a request meets at the port, and the operands that its payload spells (R190, R191, R203). -/

namespace Sys2Proof.Machine

set_option Elab.async false

/-! ### At the port -/

section AtThePort

variable {c : Instr} {p : List Byte} {s : State}

/-- R191: the command is a request at the port, whose operands these are. -/
theorem exec_payload (h : c.payload = some p) : ∃ (α : Type) (parse : List Byte → Option α)
    (owner : State → α → State × Response),
    (∀ s, exec c s = s.request p parse owner) ∧ c.operandsRead = (parse p).isSome := by
  unfold exec
  cases c
  all_goals cases h
  all_goals exact ⟨_, _, _, fun _ => rfl, rfl⟩

theorem heard_badFrame (s : State) (p : List Byte) :
    (s.setPort (s.body.port.transaction (p.length + 4) true)).badFrame = s.setPort { s.body.port.heard p with
      requests := s.body.port.requests
      badFrames := s.body.port.badFrames + 1
      response := some { status := .badFrame, payload := [] } } := by
  rw [transaction_badFrame]
  unfold Port.heard
  cases s.body.port.response with
  | none => rfl
  | some r => simp only [Nat.add_le_add_iff_right]

theorem exec_longPayload (payload : c.payload = some p) (free : s.rst.held = false) (long : 248 < p.length) :
    exec c s = .next (s.setPort { s.body.port.heard p with
      requests := s.body.port.requests
      badFrames := s.body.port.badFrames + 1
      response := some { status := .badFrame, payload := [] } }) := by
  obtain ⟨α, parse, owner, taken, _⟩ := exec_payload payload
  rw [taken, State.request_long free long, heard_badFrame]

theorem exec_loading (payload : c.payload = some p) (free : s.rst.held = false) (fits : p.length ≤ 248)
    (loading : s.body.port.loading = true) :
    exec c s = .next (s.answer p { status := .starting, payload := [] }) := by
  obtain ⟨α, parse, owner, taken, _⟩ := exec_payload payload
  rw [taken, State.request_loading free fits loading, State.arrive_heard]
  rfl

theorem exec_badOperand (payload : c.payload = some p) (free : s.rst.held = false) (fits : p.length ≤ 248)
    (operating : s.body.port.loading = false) (unread : c.operandsRead = false) :
    exec c s = .next (s.answer p { status := .badOperand, payload := [] }) := by
  obtain ⟨α, parse, owner, taken, read⟩ := exec_payload payload
  have none : parse p = none := Option.isNone_iff_eq_none.1 (by rw [← Option.not_isSome, ← read, unread]; rfl)
  rw [taken, State.request_badOperand free fits operating none, State.arrive_heard]
  rfl

end AtThePort

/-! ### Choices -/

section Choices

variable {n : Nat}

theorem choice_of_two {α : Type} {u v x : α} :
    (if n = 0 then some u else if n = 1 then some v else none) = some x ↔ (n = 0 ∧ x = u) ∨ (n = 1 ∧ x = v) := by
  rcases n with _ | _ | n <;> simp [eq_comm]

theorem readRecurrenceKind_iff {x : RecurrenceKind} : readRecurrenceKind n = some x ↔
    (n = 0 ∧ x = .once) ∨ (n = 1 ∧ x = .daily) ∨ (n = 2 ∧ x = .hourly) := by
  unfold readRecurrenceKind
  rcases n with _ | _ | _ | n <;> simp [eq_comm]

theorem readBellOrNone_iff {x : Option Nat} :
    readBellOrNone n = some x ↔ (n = 255 ∧ x = none) ∨ (n ≤ 55 ∧ x = some n) := by
  unfold readBellOrNone
  by_cases absent : n = 255
  · subst absent
    simp [eq_comm]
  · by_cases bell : n ≤ 55 <;> simp [absent, bell, eq_comm]

theorem readPlacement_iff {hammer : Nat} {x : Option (Nat × Nat)} : readPlacement n hammer = some x ↔
    (n = 0 ∧ hammer = 0 ∧ x = none) ∨ (1 ≤ n ∧ n ≤ 7 ∧ hammer ≤ 7 ∧ x = some (n, hammer)) := by
  unfold readPlacement
  by_cases unplaced : n = 0
  · subst unplaced
    by_cases zero : hammer = 0 <;> simp [zero, eq_comm]
  · have placed : 1 ≤ n := Nat.one_le_iff_ne_zero.2 unplaced
    by_cases range : n ≤ 7 ∧ hammer ≤ 7
    · simp [unplaced, placed, range, eq_comm]
    · rw [if_neg unplaced, if_neg range]
      simp only [unplaced, false_and, false_or, reduceCtorEq, false_iff]
      rintro ⟨_, board, place, _⟩
      exact range ⟨board, place⟩

end Choices

/-! ### Operands -/

section Operands

variable {p : List Byte} {i : Nat}

theorem parseNothing_iff : parseNothing p = some () ↔ p.length = 0 := by
  simp [parseNothing, check_eq_some]

theorem parseByte_iff {bound n : Nat} :
    parseByte bound p = some n ↔ p.length = 1 ∧ n = byteAt p 0 ∧ n ≤ bound := by
  rw [parseByte, check_eq_some]
  constructor
  · rintro ⟨ok, rfl⟩
    simpa using ok
  · rintro ⟨length, rfl, low⟩
    simp [length, low]

theorem parseSetTime_iff {t : TowerTime} : parseSetTime p = some t ↔
    p.length = 7 ∧ byteAt p 2 ≤ 6 ∧ longAt p 3 ≤ 86399999 ∧
      t = { day := wordAt p 0, weekday := byteAt p 2, ms := longAt p 3 } := by
  rw [parseSetTime, check_eq_some]
  simp only [Bool.and_eq_true, beq_iff_eq, decide_eq_true_eq, and_assoc, eq_comm (b := t)]

/-- R32: the calibration that eighteen bytes spell, its placement apart. -/
def calibrationAt (p : List Byte) (i : Nat) (placement : Option (Nat × Nat)) : Calibration :=
  { placement := placement, floor := wordAt p (i + 2), ceiling := wordAt p (i + 4), depth := byteAt p (i + 6),
    softSeed := wordAt p (i + 7), loudSeed := wordAt p (i + 9), window := byteAt p (i + 11),
    mask := byteAt p (i + 12), recovery := wordAt p (i + 13), p1 := byteAt p (i + 15), p15 := byteAt p (i + 16),
    missLimit := byteAt p (i + 17) }

/-- R32: the ranges of a calibration. -/
abbrev Calibration.InRange (c : Calibration) : Prop :=
  40 ≤ c.floor ∧ c.floor < c.ceiling ∧ c.ceiling ≤ 4000 ∧
  (c.depth = 1 ∨ c.depth = 2 ∨ c.depth = 4 ∨ c.depth = 8) ∧
  128 ≤ c.window ∧ c.mask ≤ 127 ∧ c.recovery ≤ 8000 ∧ 1 ≤ c.p1 ∧ c.p1 ≤ c.p15 ∧
  1 ≤ c.missLimit ∧ c.missLimit ≤ 15 ∧ c.floor ≤ c.softSeed ∧ c.softSeed ≤ c.ceiling ∧
  c.floor ≤ c.loudSeed ∧ c.loudSeed ≤ c.ceiling

/-- What is checked, and what it is checked of: the operands are `build x` where the choice `x` is read and the
checks hold of the operands it makes. -/
theorem bind_check_eq_some {α β : Type} {o : Option α} {build : α → β} {ok : α → Bool} {get : β → α}
    {InRange : β → Prop} {y : β} (made : ∀ x, get (build x) = x)
    (checked : ∀ x, o = some x → (ok x = true ↔ InRange (build x))) :
    o.bind (fun x => check (ok x) (build x)) = some y ↔
      o = some (get y) ∧ y = build (get y) ∧ InRange y := by
  rw [Option.bind_eq_some_iff]
  constructor
  · rintro ⟨x, read, built⟩
    obtain ⟨ok, rfl⟩ := check_eq_some.1 built
    exact ⟨by rw [made, read], by rw [made], (checked x read).1 ok⟩
  · rintro ⟨read, built, range⟩
    exact ⟨get y, read, check_eq_some.2 ⟨(checked _ read).2 (built ▸ range), built.symm⟩⟩

theorem parseCalibration_iff {c : Calibration} : parseCalibration p i = some c ↔
    readPlacement (byteAt p i) (byteAt p (i + 1)) = some c.placement ∧
    c = calibrationAt p i c.placement ∧ c.InRange := by
  refine bind_check_eq_some (build := calibrationAt p i) (get := Calibration.placement) (fun _ => rfl)
    fun placement _ => ?_
  simp only [Bool.and_eq_true, decide_eq_true_eq, List.contains_iff_mem, List.mem_cons, List.not_mem_nil,
    or_false, calibrationAt, Calibration.InRange]
  omega

theorem parseSetBell_iff {n : Nat} {c : Calibration} : parseSetBell p = some (n, c) ↔
    p.length = 19 ∧ n = byteAt p 0 ∧ n ≤ 55 ∧ parseCalibration p 1 = some c := by
  unfold parseSetBell
  split
  next ok =>
    simp only [Option.map_eq_some_iff, Prod.mk.injEq]
    constructor
    · rintro ⟨_, read, rfl, rfl⟩
      exact ⟨ok.1, rfl, ok.2, read⟩
    · rintro ⟨_, rfl, _, read⟩
      exact ⟨c, read, rfl, rfl⟩
  next bad =>
    simp only [reduceCtorEq, false_iff]
    rintro ⟨length, rfl, bell, _⟩
    exact bad ⟨length, bell⟩

theorem parseTestStrike_iff {n f : Nat} : parseTestStrike p = some (n, f) ↔
    p.length = 2 ∧ n = byteAt p 0 ∧ n ≤ 55 ∧ f = byteAt p 1 ∧ 1 ≤ f ∧ f ≤ 15 := by
  rw [parseTestStrike, check_eq_some, Prod.mk.injEq]
  simp only [Bool.and_eq_true, beq_iff_eq, decide_eq_true_eq]
  constructor
  · rintro ⟨⟨length, bell, low, high⟩, rfl, rfl⟩
    exact ⟨length, rfl, bell, rfl, low, high⟩
  · rintro ⟨length, rfl, bell, rfl, low, high⟩
    exact ⟨⟨length, bell, low, high⟩, rfl, rfl⟩

theorem parseSetQueue_iff {quotas : List Nat} {horizon late : Nat} :
    parseSetQueue p = some (quotas, horizon, late) ↔
      p.length = 11 ∧ quotas = (List.range 7).map (byteAt p) ∧ (∀ q ∈ quotas, 8 ≤ q ∧ q ≤ 224) ∧
      horizon = wordAt p 7 ∧ 250 ≤ horizon ∧ horizon ≤ 4000 ∧ late = wordAt p 9 ∧ late ≤ 500 := by
  rw [parseSetQueue, check_eq_some, Prod.mk.injEq, Prod.mk.injEq]
  simp only [Bool.and_eq_true, beq_iff_eq, decide_eq_true_eq, List.all_eq_true]
  constructor
  · rintro ⟨⟨⟨length, range⟩, low, high, limit⟩, rfl, rfl, rfl⟩
    exact ⟨length, rfl, range, rfl, low, high, rfl, limit⟩
  · rintro ⟨length, rfl, range, rfl, low, high, rfl, limit⟩
    exact ⟨⟨⟨length, range⟩, low, high, limit⟩, rfl, rfl, rfl⟩

end Operands

end Sys2Proof.Machine
end


section
/-! SUPPORT. The operands of the commands, field by field (R122 to R209), and what a request meets (R191). -/

namespace Sys2Proof.Machine

set_option Elab.async false

/-! ### Records and map entries -/

section Cutting

/-- R131: bytes cut into records of three. -/
theorem records3_eq_iff {l : List Byte} {n : Nat} {records : List (List Byte)} (size : l.length = 3 * n) :
    records3 l = records ↔ records.length = n ∧
      ∀ k, (h : k < records.length) → records[k] = (l.drop (3 * k)).take 3 := by
  induction n generalizing l records with
  | zero =>
    rw [List.eq_nil_of_length_eq_zero size, records3]
    constructor
    · rintro rfl
      exact ⟨rfl, fun k h => absurd h (Nat.not_lt_zero k)⟩
    · rintro ⟨none, _⟩
      exact (List.eq_nil_of_length_eq_zero none).symm
    · simp
  | succ n ih =>
    match l, size with
    | x :: y :: z :: rest, size =>
      have shorter : rest.length = 3 * n := by
        simp only [List.length_cons] at size
        omega
      rw [records3]
      cases records with
      | nil => simp
      | cons r others =>
        rw [List.cons.injEq, ih shorter]
        constructor
        · rintro ⟨rfl, length, later⟩
          refine ⟨by rw [List.length_cons, length], fun k h => ?_⟩
          cases k with
          | zero => rfl
          | succ k => exact later k (by simpa using h)
        · rintro ⟨length, each⟩
          exact ⟨(each 0 (by simp)).symm, by simpa using length, fun k h => each (k + 1) (by simpa using h)⟩

/-- R139: map entries, two bytes each. -/
theorem readMapEntries_iff {l : List Byte} {n : Nat} {es : List MapEntry} (size : l.length = 2 * n) :
    readMapEntries l = some es ↔ es.length = n ∧
      ∀ k, (h : k < es.length) → readMapEntry (byteAt l (2 * k)) (byteAt l (2 * k + 1)) = some es[k] := by
  induction n generalizing l es with
  | zero =>
    rw [List.eq_nil_of_length_eq_zero size, readMapEntries, Option.some.injEq]
    constructor
    · rintro rfl
      exact ⟨rfl, fun k h => absurd h (Nat.not_lt_zero k)⟩
    · rintro ⟨none, _⟩
      exact (List.eq_nil_of_length_eq_zero none).symm
  | succ n ih =>
    match l, size with
    | x :: y :: rest, size =>
      have shorter : rest.length = 2 * n := by
        simp only [List.length_cons] at size
        omega
      rw [readMapEntries, Option.bind_eq_some_iff]
      simp only [Option.map_eq_some_iff, ih shorter]
      constructor
      · rintro ⟨first, read, others, ⟨length, later⟩, rfl⟩
        refine ⟨by rw [List.length_cons, length], fun k h => ?_⟩
        cases k with
        | zero => exact read
        | succ k => exact later k (by simpa using h)
      · rintro ⟨length, each⟩
        cases es with
        | nil => simp at length
        | cons first others =>
          exact ⟨first, each 0 (by simp), others,
            ⟨by simpa using length, fun k h => each (k + 1) (by simpa using h)⟩, rfl⟩

end Cutting

section Operands

variable {p : List Byte} {i : Nat}

/-! ### Performances -/

/-- R143: the fields of a performance that twenty bytes spell, its choices apart. -/
def perfAt (p : List Byte) (i : Nat) (map : MapId) (preemptive : Bool) (claimKind : ClaimKind) (policy : Policy) :
    PerfFields :=
  { slot := byteAt p i, map := map, transposition := signedAt p (i + 2),
    tempoM := if byteAt p (i + 3) = 0 then none else some (byteAt p (i + 3)),
    tempoN := byteAt p (i + 4), repeatCount := byteAt p (i + 5), forceOffset := signedAt p (i + 6),
    tollBell := byteAt p (i + 7), strokes := if byteAt p (i + 8) = 0 then none else some (byteAt p (i + 8)),
    interval := wordAt p (i + 9), tollForce := byteAt p (i + 11), priority := byteAt p (i + 12),
    preemptive := preemptive, claimKind := claimKind, waitLimit := wordAt p (i + 15),
    policy := policy, slack := wordAt p (i + 18) }

/-- R143: the ranges of the fields of a performance. -/
abbrev perfInRange (p : List Byte) (i : Nat) (f : PerfFields) : Prop :=
  f.slot ≤ 63 ∧ -24 ≤ f.transposition ∧ f.transposition ≤ 24 ∧ byteAt p (i + 3) ≤ 31 ∧
  f.tempoN ≤ 7 ∧ -7 ≤ f.forceOffset ∧ f.forceOffset ≤ 7 ∧ f.tollBell ≤ 55 ∧
  byteAt p (i + 8) ≤ 60 ∧ 500 ≤ f.interval ∧ f.interval ≤ 10000 ∧ 1 ≤ f.tollForce ∧
  f.tollForce ≤ 15 ∧ f.priority ≤ 7 ∧ f.waitLimit ≤ 600 ∧ f.slack ≤ 2000

theorem parsePerf_iff {f : PerfFields} : parsePerf p i = some f ↔
    readMapId (byteAt p (i + 1)) = some f.map ∧ readYesNo (byteAt p (i + 13)) = some f.preemptive ∧
    readClaimKind (byteAt p (i + 14)) = some f.claimKind ∧ readPolicy (byteAt p (i + 17)) = some f.policy ∧
    f = perfAt p i f.map f.preemptive f.claimKind f.policy ∧ perfInRange p i f := by
  simp only [parsePerf, Option.bind_eq_some_iff, check_eq_some, Bool.and_eq_true, decide_eq_true_eq]
  constructor
  · rintro ⟨map, readMap, preemptive, readPreemptive, kind, readKind, policy, readPolicy, range, rfl⟩
    exact ⟨readMap, readPreemptive, readKind, readPolicy, rfl, by simpa only [and_assoc] using range⟩
  · rintro ⟨readMap, readPreemptive, readKind, readPolicy, built, range⟩
    refine ⟨_, readMap, _, readPreemptive, _, readKind, _, readPolicy, ?_, built.symm⟩
    rw [built] at range
    simpa only [perfInRange, perfAt, and_assoc] using range

theorem parsePlayNow_iff {named : Option Nat} {kind : EntryKind} {f : PerfFields} :
    parsePlayNow p = some (named, kind, f) ↔
      p.length = 22 ∧ byteAt p 0 ≤ 7 ∧ named = (if byteAt p 0 = 0 then none else some (byteAt p 0)) ∧
      readEntryKind (byteAt p 1) = some kind ∧ parsePerf p 2 = some f := by
  unfold parsePlayNow
  split
  next ok =>
    simp only [Option.bind_eq_some_iff, Option.map_eq_some_iff, Prod.mk.injEq]
    constructor
    · rintro ⟨_, readKind, _, readPerf, rfl, rfl, rfl⟩
      exact ⟨ok.1, ok.2, rfl, readKind, readPerf⟩
    · rintro ⟨_, _, rfl, readKind, readPerf⟩
      exact ⟨_, readKind, _, readPerf, rfl, rfl, rfl⟩
  next bad =>
    simp only [reduceCtorEq, false_iff]
    rintro ⟨length, player, _⟩
    exact bad ⟨length, player⟩

theorem parseStopPlayer_iff {q : Nat} {v : StopVariant} : parseStopPlayer p = some (q, v) ↔
    p.length = 2 ∧ q = byteAt p 0 ∧ 1 ≤ q ∧ q ≤ 7 ∧
      ((byteAt p 1 = 0 ∧ v = .stop) ∨ (byteAt p 1 = 1 ∧ v = .finish)) := by
  have variant : (if byteAt p 1 = 0 then some (byteAt p 0, StopVariant.stop)
      else if byteAt p 1 = 1 then some (byteAt p 0, .finish) else none) = some (q, v) ↔
        (byteAt p 1 = 0 ∧ (q, v) = (byteAt p 0, .stop)) ∨ (byteAt p 1 = 1 ∧ (q, v) = (byteAt p 0, .finish)) :=
    choice_of_two
  unfold parseStopPlayer
  split
  next ok =>
    rw [variant, Prod.mk.injEq, Prod.mk.injEq]
    obtain ⟨length, low, high⟩ := ok
    constructor
    · rintro (⟨stop, rfl, rfl⟩ | ⟨finish, rfl, rfl⟩)
      · exact ⟨length, rfl, low, high, .inl ⟨stop, rfl⟩⟩
      · exact ⟨length, rfl, low, high, .inr ⟨finish, rfl⟩⟩
    · rintro ⟨_, rfl, _, _, ⟨stop, rfl⟩ | ⟨finish, rfl⟩⟩
      · exact .inl ⟨stop, rfl, rfl⟩
      · exact .inr ⟨finish, rfl, rfl⟩
  next bad =>
    simp only [reduceCtorEq, false_iff]
    rintro ⟨length, rfl, low, high, _⟩
    exact bad ⟨length, low, high⟩

/-! ### Tunes and maps -/

theorem parseOpenTune_iff {o : OpenTune} : parseOpenTune p = some o ↔
    p.length = 7 ∧
      o = { slot := byteAt p 0, length := wordAt p 1, m := byteAt p 3, n := byteAt p 4, gap := wordAt p 5 } ∧
      o.slot ≤ 63 ∧ 1 ≤ o.length ∧ o.length ≤ 4096 ∧ 1 ≤ o.m ∧ o.m ≤ 31 ∧ o.n ≤ 7 ∧ o.gap ≤ 4095 := by
  rw [parseOpenTune, check_eq_some]
  simp only [Bool.and_eq_true, beq_iff_eq, OpenTune.inRange, decide_eq_true_eq]
  constructor
  · rintro ⟨⟨length, range⟩, rfl⟩
    exact ⟨length, rfl, range⟩
  · rintro ⟨length, rfl, range⟩
    exact ⟨⟨length, range⟩, rfl⟩

theorem records_ok {records : List (List Byte)}
    (cut : ∀ k, (h : k < records.length) → records[k] = (p.drop (4 + 3 * k)).take 3) :
    records.all recordOk = true ↔ ∀ k, k < records.length → byteAt p (4 + 3 * k) % 128 ≤ 95 := by
  have ok (k : Nat) (h : k < records.length) : recordOk records[k] = true ↔ byteAt p (4 + 3 * k) % 128 ≤ 95 := by
    have first : byteAt ((p.drop (4 + 3 * k)).take 3) 0 = byteAt p (4 + 3 * k) := by
      simp [byteAt, List.getD_eq_getElem?_getD]
    rw [cut k h, recordOk, decide_eq_true_eq]
    exact iff_of_eq (congrArg (· % 128 ≤ 95) first)
  rw [List.all_eq_true, List.forall_mem_iff_getElem]
  exact forall₂_congr ok

theorem parseWriteTune_iff {n offset : Nat} {records : List (List Byte)} :
    parseWriteTune p = some (n, offset, records) ↔
      n = byteAt p 0 ∧ n ≤ 63 ∧ offset = wordAt p 1 ∧ offset ≤ 4095 ∧ 1 ≤ byteAt p 3 ∧ byteAt p 3 ≤ 60 ∧
      p.length = 4 + 3 * byteAt p 3 ∧ records.length = byteAt p 3 ∧
      (∀ k, (h : k < records.length) →
        records[k] = (p.drop (4 + 3 * k)).take 3 ∧ byteAt p (4 + 3 * k) % 128 ≤ 95) := by
  rw [parseWriteTune, check_eq_some, Prod.mk.injEq, Prod.mk.injEq]
  simp only [Bool.and_eq_true, beq_iff_eq, decide_eq_true_eq]
  have cuts (size : p.length = 4 + 3 * byteAt p 3) : records3 (p.drop 4) = records ↔
      records.length = byteAt p 3 ∧
        ∀ k, (h : k < records.length) → records[k] = (p.drop (4 + 3 * k)).take 3 := by
    rw [records3_eq_iff (n := byteAt p 3) (by rw [List.length_drop]; omega)]
    simp only [List.drop_drop]
  constructor
  · rintro ⟨⟨⟨⟨⟨_, slot, top⟩, some_, few⟩, size⟩, ok⟩, rfl, rfl, cut⟩
    obtain ⟨length, each⟩ := (cuts size).1 cut
    rw [cut] at ok
    exact ⟨rfl, slot, rfl, top, some_, few, size, length, fun k h => ⟨each k h, (records_ok each).1 ok k h⟩⟩
  · rintro ⟨rfl, slot, rfl, top, some_, few, size, length, each⟩
    have cut := (cuts size).2 ⟨length, fun k h => (each k h).1⟩
    rw [cut]
    exact ⟨⟨⟨⟨⟨by omega, slot, top⟩, some_, few⟩, size⟩,
      (records_ok fun k h => (each k h).1).2 fun k h => (each k h).2⟩, rfl, rfl, rfl⟩

theorem parseCloseTune_iff {n : Nat} {crc : BitVec 16} : parseCloseTune p = some (n, crc) ↔
    p.length = 3 ∧ n = byteAt p 0 ∧ n ≤ 63 ∧ crc = BitVec.ofNat 16 (wordAt p 1) := by
  rw [parseCloseTune, check_eq_some, Prod.mk.injEq]
  simp only [Bool.and_eq_true, beq_iff_eq, decide_eq_true_eq]
  constructor
  · rintro ⟨⟨length, slot⟩, rfl, rfl⟩
    exact ⟨length, rfl, slot, rfl⟩
  · rintro ⟨length, rfl, slot, rfl⟩
    exact ⟨⟨length, slot⟩, rfl, rfl⟩

theorem readMapEntry_iff {primary alternate : Nat} {x : MapEntry} : readMapEntry primary alternate = some x ↔
    readBellOrNone primary = some x.primary ∧ readBellOrNone alternate = some x.alternate ∧
      (x.primary ≠ none → x.primary ≠ x.alternate) := by
  simp only [readMapEntry, Option.bind_eq_some_iff, check_eq_some]
  constructor
  · rintro ⟨first, readFirst, second, readSecond, ok, rfl⟩
    exact ⟨readFirst, readSecond, by simpa [Option.isSome_iff_ne_none, imp_iff_not_or] using ok⟩
  · rintro ⟨readFirst, readSecond, differ⟩
    exact ⟨_, readFirst, _, readSecond, by simpa [Option.isSome_iff_ne_none, imp_iff_not_or] using differ, rfl⟩

theorem parseWriteMap_iff {m : MapId} {first : Nat} {es : List MapEntry} :
    parseWriteMap p = some (m, first, es) ↔
      readMapId (byteAt p 0) = some m ∧ first = byteAt p 1 ∧ first ≤ 95 ∧ 1 ≤ byteAt p 2 ∧
      first + byteAt p 2 ≤ 96 ∧ p.length = 3 + 2 * byteAt p 2 ∧ es.length = byteAt p 2 ∧
      ∀ k, (h : k < es.length) → readMapEntry (byteAt p (3 + 2 * k)) (byteAt p (4 + 2 * k)) = some es[k] := by
  have entries (size : p.length = 3 + 2 * byteAt p 2) : readMapEntries (p.drop 3) = some es ↔
      es.length = byteAt p 2 ∧
        ∀ k, (h : k < es.length) → readMapEntry (byteAt p (3 + 2 * k)) (byteAt p (4 + 2 * k)) = some es[k] := by
    have next (k : Nat) : 3 + (2 * k + 1) = 4 + 2 * k := by omega
    rw [readMapEntries_iff (n := byteAt p 2) (by rw [List.length_drop]; omega)]
    simp only [byteAt_drop, next]
  unfold parseWriteMap
  split
  next ok =>
    obtain ⟨_, low, some_, _, size, fits⟩ := ok
    simp only [Option.bind_eq_some_iff, Option.map_eq_some_iff, Prod.mk.injEq]
    constructor
    · rintro ⟨_, readMap, _, readEntries, rfl, rfl, rfl⟩
      exact ⟨readMap, rfl, low, some_, fits, size, (entries size).1 readEntries⟩
    · rintro ⟨readMap, rfl, _, _, _, _, each⟩
      exact ⟨_, readMap, _, (entries size).2 each, rfl, rfl, rfl⟩
  next bad =>
    simp only [reduceCtorEq, false_iff]
    rintro ⟨_, rfl, low, some_, fits, size, _⟩
    exact bad ⟨by omega, low, some_, by omega, size, fits⟩

theorem parseReadMap_iff {m : MapId} {first count : Nat} : parseReadMap p = some (m, first, count) ↔
    p.length = 3 ∧ readMapId (byteAt p 0) = some m ∧ first = byteAt p 1 ∧ first ≤ 95 ∧ count = byteAt p 2 ∧
      1 ≤ count ∧ first + count ≤ 96 := by
  unfold parseReadMap
  split
  next ok =>
    obtain ⟨length, low, some_, _, fits⟩ := ok
    simp only [Option.map_eq_some_iff, Prod.mk.injEq]
    constructor
    · rintro ⟨_, readMap, rfl, rfl, rfl⟩
      exact ⟨length, readMap, rfl, low, rfl, some_, fits⟩
    · rintro ⟨_, readMap, rfl, _, rfl, _⟩
      exact ⟨_, readMap, rfl, rfl, rfl⟩
  next bad =>
    simp only [reduceCtorEq, false_iff]
    rintro ⟨length, _, rfl, low, rfl, some_, fits⟩
    exact bad ⟨length, low, some_, by omega, fits⟩

end Operands

end Sys2Proof.Machine
end


section
/-! SUPPORT. The operands of the Calendar, the Console Interface, the bus and the notices (R144 to R209). -/

namespace Sys2Proof.Machine

set_option Elab.async false

section Operands

variable {p : List Byte} {i : Nat}

/-! ### The Calendar -/

/-- R144: the recurrence that nine bytes spell, its kind apart. -/
def recurrenceAt (p : List Byte) (i : Nat) (kind : RecurrenceKind) : Recurrence :=
  { kind := kind, day := wordAt p (i + 1), mask := byteAt p (i + 3), hour := byteAt p (i + 4),
    minute := byteAt p (i + 5), second := byteAt p (i + 6), firstHour := byteAt p (i + 7),
    lastHour := byteAt p (i + 8) }

/-- R144, R155: the fields that a recurrence uses are in range. -/
abbrev Recurrence.InRange (r : Recurrence) : Prop :=
  r.minute ≤ 59 ∧ r.second ≤ 59 ∧ (r.kind ≠ .once → 1 ≤ r.mask ∧ r.mask ≤ 127) ∧
  (r.kind ≠ .hourly → r.hour ≤ 23) ∧ (r.kind = .hourly → r.firstHour ≤ r.lastHour ∧ r.lastHour ≤ 23)

theorem parseRecurrence_iff {r : Recurrence} : parseRecurrence p i = some r ↔
    readRecurrenceKind (byteAt p i) = some r.kind ∧ r = recurrenceAt p i r.kind ∧ r.InRange := by
  refine bind_check_eq_some (build := recurrenceAt p i) (get := Recurrence.kind) (fun _ => rfl) fun kind _ => ?_
  cases kind
  · simp only [Bool.and_eq_true, decide_eq_true_eq, recurrenceAt, Recurrence.InRange]
    simp [and_assoc]
  · simp only [Bool.and_eq_true, decide_eq_true_eq, recurrenceAt, Recurrence.InRange]
    simp
    omega
  · simp only [Bool.and_eq_true, decide_eq_true_eq, recurrenceAt, Recurrence.InRange]
    simp
    omega

theorem parseEntryFields_iff {enabled : Bool} {f : EntryFields} : parseEntryFields p i = some (enabled, f) ↔
    readYesNo (byteAt p i) = some enabled ∧ readEntryKind (byteAt p (i + 1)) = some f.kind ∧
    parseRecurrence p (i + 2) = some f.recurrence ∧ byteAt p (i + 11) ≤ 7 ∧
    f.player = (if byteAt p (i + 11) = 0 then none else some (byteAt p (i + 11))) ∧
    parsePerf p (i + 12) = some f.perf ∧ readYesNo (byteAt p (i + 32)) = some f.notice := by
  simp only [parseEntryFields, Option.bind_eq_some_iff, check_eq_some, decide_eq_true_eq, Prod.mk.injEq]
  constructor
  · rintro ⟨_, readEnabled, _, readKind, _, readRecurrence, _, readPerf, _, readNotice, player, rfl, rfl⟩
    exact ⟨readEnabled, readKind, readRecurrence, player, rfl, readPerf, readNotice⟩
  · obtain ⟨kind, recurrence, named, perf, notice⟩ := f
    rintro ⟨readEnabled, readKind, readRecurrence, player, rfl, readPerf, readNotice⟩
    exact ⟨_, readEnabled, _, readKind, _, readRecurrence, _, readPerf, _, readNotice, player, rfl, rfl⟩

theorem parseWriteEntry_iff {n : Nat} {enabled : Bool} {f : EntryFields} :
    parseWriteEntry p = some (n, enabled, f) ↔
      p.length = 34 ∧ n = byteAt p 0 ∧ n ≤ 47 ∧ parseEntryFields p 1 = some (enabled, f) := by
  unfold parseWriteEntry
  split
  next ok =>
    simp only [Option.map_eq_some_iff, Prod.mk.injEq]
    constructor
    · rintro ⟨_, read, rfl, rfl⟩
      exact ⟨ok.1, rfl, ok.2, read⟩
    · rintro ⟨_, rfl, _, read⟩
      exact ⟨_, read, rfl, rfl⟩
  next bad =>
    simp only [reduceCtorEq, false_iff]
    rintro ⟨length, rfl, entry, _⟩
    exact bad ⟨length, entry⟩

theorem parseSetCalendar_iff {preRoll catchUp margin : Nat} :
    parseSetCalendar p = some (preRoll, catchUp, margin) ↔
      p.length = 6 ∧ preRoll = wordAt p 0 ∧ 500 ≤ preRoll ∧ preRoll ≤ 10000 ∧ catchUp = wordAt p 2 ∧
      catchUp ≤ 600 ∧ margin = wordAt p 4 ∧ 100 ≤ margin ∧ margin ≤ 5000 := by
  rw [parseSetCalendar, check_eq_some, Prod.mk.injEq, Prod.mk.injEq]
  simp only [Bool.and_eq_true, beq_iff_eq, decide_eq_true_eq]
  constructor
  · rintro ⟨⟨length, low, high, limit, least, most⟩, rfl, rfl, rfl⟩
    exact ⟨length, rfl, low, high, rfl, limit, rfl, least, most⟩
  · rintro ⟨length, rfl, low, high, rfl, limit, rfl, least, most⟩
    exact ⟨⟨length, low, high, limit, least, most⟩, rfl, rfl, rfl⟩

/-! ### The console, the bus, the notices -/

/-- R174: the settings that eleven bytes spell, their choices apart. -/
def consoleAt (p : List Byte) (enable preemptive : Bool) (latency : Latency) (map : MapId) : ConsoleSettings :=
  { enable := enable, priority := byteAt p 1, preemptive := preemptive, latency := latency,
    delay := wordAt p 4, slack := wordAt p 6, map := map, hold := byteAt p 9, resume := byteAt p 10 }

theorem parseSetConsole_iff {c : ConsoleSettings} : parseSetConsole p = some c ↔
    p.length = 11 ∧ readYesNo (byteAt p 0) = some c.enable ∧ readYesNo (byteAt p 2) = some c.preemptive ∧
    readLatency (byteAt p 3) = some c.latency ∧ readMapId (byteAt p 8) = some c.map ∧
    c = consoleAt p c.enable c.preemptive c.latency c.map ∧
    c.priority ≤ 7 ∧ c.delay ≤ 500 ∧ c.slack ≤ 2000 ∧ 8 ≤ c.hold ∧ c.hold ≤ 64 ∧ c.resume < c.hold := by
  simp only [parseSetConsole, Option.bind_eq_some_iff, check_eq_some, Bool.and_eq_true, beq_iff_eq,
    decide_eq_true_eq]
  constructor
  · rintro ⟨_, readEnable, _, readPreemptive, _, readLatency, _, readMap, ⟨length, range⟩, rfl⟩
    exact ⟨length, readEnable, readPreemptive, readLatency, readMap, rfl, range⟩
  · rintro ⟨length, readEnable, readPreemptive, readLatency, readMap, built, range⟩
    refine ⟨_, readEnable, _, readPreemptive, _, readLatency, _, readMap, ⟨length, ?_⟩, built.symm⟩
    rw [built] at range
    exact range

theorem parseEndConsole_iff {v : EndVariant} : parseEndConsole p = some v ↔
    p.length = 1 ∧ ((byteAt p 0 = 0 ∧ v = .drain) ∨ (byteAt p 0 = 1 ∧ v = .cut)) := by
  unfold parseEndConsole
  by_cases length : p.length = 1
  · simp only [length, true_and]
    exact choice_of_two
  · simp [length]

theorem parseSetBus_iff {x : Nat} : parseSetBus p = some x ↔
    p.length = 2 ∧ x = wordAt p 0 ∧ 16 ≤ x ∧ x ≤ 400 := by
  rw [parseSetBus, check_eq_some]
  simp only [Bool.and_eq_true, beq_iff_eq, decide_eq_true_eq]
  constructor
  · rintro ⟨⟨length, low, high⟩, rfl⟩
    exact ⟨length, rfl, low, high⟩
  · rintro ⟨length, rfl, low, high⟩
    exact ⟨⟨length, low, high⟩, rfl⟩

theorem parseReadBus_iff {x : BusSection} : parseReadBus p = some x ↔
    (p.length = 1 ∧ ((byteAt p 0 = 0 ∧ x = .status) ∨ (byteAt p 0 = 3 ∧ x = .boards))) ∨
    (p.length = 2 ∧ byteAt p 1 ≤ 55 ∧
      ((byteAt p 0 = 1 ∧ x = .orders (byteAt p 1)) ∨ (byteAt p 0 = 2 ∧ x = .hammers (byteAt p 1)))) := by
  unfold parseReadBus
  by_cases one : p.length = 1
  · by_cases status : byteAt p 0 = 0
    · simp [one, status, eq_comm]
    · by_cases boards : byteAt p 0 = 3 <;> simp [one, status, boards, eq_comm]
  · by_cases two : p.length = 2
    · by_cases low : byteAt p 1 ≤ 55
      · by_cases orders : byteAt p 0 = 1
        · simp [two, low, orders, eq_comm]
        · by_cases hammers : byteAt p 0 = 2 <;> simp [two, low, orders, hammers, eq_comm]
      · simp [two, low]
    · simp [one, two]

theorem parseNotices_iff {x : BitVec 13} : parseNotices p = some x ↔ p.length = 2 ∧ x.toNat = wordAt p 0 := by
  have bound := x.isLt
  rw [parseNotices, check_eq_some]
  simp only [Bool.and_eq_true, beq_iff_eq, decide_eq_true_eq]
  constructor
  · rintro ⟨⟨length, low⟩, rfl⟩
    exact ⟨length, (BitVec.toNat_ofNat _ _).trans (Nat.mod_eq_of_lt low)⟩
  · rintro ⟨length, same⟩
    refine ⟨⟨length, by omega⟩, ?_⟩
    rw [← same, BitVec.ofNat_toNat, BitVec.setWidth_eq]

end Operands

/-- Settles O32, by the request that each command is, and what each of its operands is read from. -/
theorem requestsMeetThePort : Obligations.RequestsMeetThePort := by
  refine ⟨fun c p s payload free => ⟨exec_longPayload payload free, exec_loading payload free,
      exec_badOperand payload free⟩,
    fun p i => ⟨rfl, rfl, rfl, rfl⟩,
    fun n => ⟨fun x => choice_of_two, fun x => choice_of_two, fun x => choice_of_two, fun x => choice_of_two,
      fun x => choice_of_two, fun x => readRecurrenceKind_iff, fun x => choice_of_two,
      fun x => readBellOrNone_iff, fun hammer x => readPlacement_iff⟩,
    fun p => ⟨parseNothing_iff, fun bound n => parseByte_iff, fun t => parseSetTime_iff,
      fun i c => parseCalibration_iff, fun n c => parseSetBell_iff, fun n f => parseTestStrike_iff,
      fun quotas horizon late => parseSetQueue_iff, fun i f => parsePerf_iff,
      fun named kind f => parsePlayNow_iff, fun q v => parseStopPlayer_iff, fun o => parseOpenTune_iff,
      fun n offset records => parseWriteTune_iff, fun n crc => parseCloseTune_iff,
      fun primary alternate x => readMapEntry_iff, fun m first es => parseWriteMap_iff,
      fun m first count => parseReadMap_iff, fun i r => parseRecurrence_iff,
      fun i enabled f => parseEntryFields_iff, fun n enabled f => parseWriteEntry_iff,
      fun preRoll catchUp margin => parseSetCalendar_iff, fun c => parseSetConsole_iff,
      fun v => parseEndConsole_iff, fun x => parseSetBus_iff, fun x => parseReadBus_iff,
      fun x => parseNotices_iff⟩⟩

end Sys2Proof.Machine
end


section
/-! SUPPORT. What the reads answer, item by item (R16 to R204). -/

namespace Sys2Proof.Machine

set_option Elab.async false

/-! ### The forms of items -/

/-- The bits of a sum of different powers of two. -/
theorem testBit_sum_powers (has : Nat → Bool) (n : Nat) :
    ((List.range n).map fun j => if has j then 2 ^ j else 0).sum < 2 ^ n ∧
    ∀ i < n, (((List.range n).map fun j => if has j then 2 ^ j else 0).sum).testBit i = has i := by
  induction n with
  | zero => exact ⟨Nat.one_pos, fun i h => absurd h (Nat.not_lt_zero i)⟩
  | succ n ih =>
    obtain ⟨small, bits⟩ := ih
    rw [List.range_succ, List.map_append, List.sum_append, List.map_singleton, List.sum_singleton]
    generalize ((List.range n).map fun j => if has j then 2 ^ j else 0).sum = total at small bits ⊢
    cases top : has n with
    | false =>
      refine ⟨by simp only [Bool.false_eq_true, if_false]; omega, fun i h => ?_⟩
      rw [if_neg (by simp), Nat.add_zero]
      obtain below | rfl := Nat.lt_succ_iff_lt_or_eq.1 h
      · exact bits i below
      · rw [Nat.testBit_lt_two_pow small, top]
    | true =>
      refine ⟨by simp only [if_true]; omega, fun i h => ?_⟩
      rw [if_pos rfl, Nat.add_comm]
      obtain below | rfl := Nat.lt_succ_iff_lt_or_eq.1 h
      · rw [Nat.testBit_two_pow_add_gt below]
        exact bits i below
      · rw [Nat.testBit_two_pow_add_eq, Nat.testBit_lt_two_pow small, top]
        rfl

theorem setBytes_length (k : Nat) (has : Nat → Bool) : (setBytes k has).length = k := by
  simp [setBytes]

theorem setBytes_bit {k n : Nat} (has : Nat → Bool) (h : n < 8 * k) :
    ((setBytes k has).getD (n / 8) 0).getLsbD (n % 8) = has n := by
  have byte : n / 8 < k := by omega
  have bit : n % 8 < 8 := by omega
  have at_ : (setBytes k has).getD (n / 8) 0 =
      BitVec.ofNat 8 (((List.range 8).map fun j => if has (8 * (n / 8) + j) then 2 ^ j else 0).sum) := by
    simp [setBytes, List.getD_eq_getElem?_getD, byte]
  rw [at_, BitVec.getLsbD_ofNat, (testBit_sum_powers (fun j => has (8 * (n / 8) + j)) 8).2 _ bit,
    Nat.div_add_mod, decide_eq_true bit, Bool.true_and]

theorem setBytes_filter (k : Nat) (has : Nat → Bool) :
    setBytes k ((List.range 56).filter has).contains = setBytes k fun i => decide (i < 56) && has i := by
  refine congrArg (setBytes k) (funext fun i => Bool.eq_iff_iff.2 ?_)
  simp

theorem bellOrNone_eq : bellOrNone = fun x : Option Nat => u8 (x.getD 255) := by
  funext x
  cases x <;> rfl

theorem placementBytes_eq (x : Option (Nat × Nat)) : placementBytes x = match x with
    | none => u8 0 ++ u8 0
    | some x => u8 x.1 ++ u8 x.2 := by
  cases x <;> rfl

/-! ### What each read answers -/

section Reads

/-- R191: a read is answered with its bytes. -/
theorem exec_read {c : Instr} {s : State} {p : List Byte} {α : Type} {parse : List Byte → Option α}
    {read : State → α → List Byte} {x : α} {bytes : List Byte}
    (taken : exec c s = s.request p parse fun s x => s.done (read s x)) (heard : Heard s p)
    (operand : parse p = some x) (same : read (s.heard p) x = bytes) :
    exec c s = .next (s.answer p { status := .ok, payload := bytes }) := by
  rw [taken]
  exact State.request_read heard operand (same ▸ rfl)

variable (p : List Byte) (s : State)

theorem exec_readClock : exec (.readClock p) s = s.request p parseNothing fun s _ => s.done s.time.bytes := rfl

theorem exec_readBell : exec (.readBell p) s = s.request p (parseByte 55) fun s n => s.done ((s.bell n).bytes n) := rfl

theorem exec_readQueue : exec (.readQueue p) s =
    s.request p (parseByte 255) fun s first => s.done (s.body.queueBytes first) := rfl

theorem exec_readPlayer : exec (.readPlayer p) s =
    s.request p (parseByte 7) fun s n => s.done (s.body.playerBytes n) := rfl

theorem exec_readTuneInfo : exec (.readTuneInfo p) s =
    s.request p (parseByte 63) fun s n => s.done (s.body.slot n).bytes := rfl

theorem exec_readStore : exec (.readStore p) s = s.request p parseNothing fun s _ => s.done s.body.storeBytes := rfl

theorem exec_readMap : exec (.readMap p) s = s.request p parseReadMap fun s x =>
    s.done ((((s.map x.1).drop x.2.1).take x.2.2).flatMap fun y =>
      bellOrNone y.primary ++ bellOrNone y.alternate) := rfl

theorem exec_readEntry : exec (.readEntry p) s =
    s.request p (parseByte 47) fun s n => s.done ((s.body.entry n).bytes s.body.cal.preRoll) := rfl

theorem exec_readConsole : exec (.readConsole p) s =
    s.request p parseNothing fun s _ => s.done s.body.con.bytes := rfl

theorem exec_readBus : exec (.readBus p) s = s.request p parseReadBus fun s x => s.done (s.body.busBytes x) := rfl

theorem exec_readNotices : exec (.readNotices p) s = s.request p parseNothing fun s _ =>
    s.done (noticeBytes s.body.port.pendingFlags ++ noticeBytes s.body.port.enabled ++
      s.body.port.raises.flatMap counter) := rfl

theorem exec_identify : exec (.identify p) s = s.request p parseNothing fun s _ => s.done s.identityBytes := rfl

end Reads

/-! ### The items of the larger answers -/

section Items

/-- The counters of a block, one after another. -/
theorem flatMap_counter (l : List Counter) : l.flatMap (fun x => u32 x.toNat) = l.flatMap counter := rfl

theorem append_counters (xs : List Byte) (c : Counter) (l : List Counter) :
    xs ++ (c :: l).flatMap counter = xs ++ counter c ++ l.flatMap counter := by
  rw [List.flatMap_cons, List.append_assoc]

theorem append_no_counters (xs : List Byte) : xs ++ ([] : List Counter).flatMap counter = xs := List.append_nil xs

theorem clockBytes_eq (t : TimeBase) : t.bytes =
    u8 t.clock.code ++ optional towerBytes t.tower ++ u48 t.runTime ++
      optional s48 t.lastOffset ++ optional (fun x => s48 x.1 ++ u8 x.2.code) t.lastStep ++
      s48 t.slew ++ optional towerBytes t.pendingLoad ++ u8 t.loadStatus.code ++ yesNo t.held.isSome ++
      [t.telegrams, t.badTelegram, t.marks, t.orphanMark, t.steps].flatMap counter := by
  simp only [append_counters, append_no_counters]
  rfl

theorem bellBytes_eq (r : Bell) (n : Nat) : r.bytes n =
    u8 n ++ yesNo r.present ++ placementBytes r.placement ++ yesNo r.calibrated ++
      u16 r.floor ++ u16 r.ceiling ++ u8 r.depth ++ r.soft.bytes r.depth ++ r.loud.bytes r.depth ++
      u8 r.window ++ u8 r.mask ++ u16 r.recovery ++ u8 r.p1 ++ u8 r.p15 ++
      u8 r.missLimit ++ u8 r.missRun ++ u8 r.health.code ++ u8 r.cause.code ++
      yesNo r.faultReported ++ yesNo r.lockout ++ yesNo r.boardOnline ++ yesNo r.available ++
      optional u48 r.lastContact ++ [r.actuations, r.contacts, r.presumed, r.rejected,
        r.lateContacts, r.bounces, r.strays].flatMap counter := by
  simp only [append_counters, append_no_counters]
  rfl

/-- R78: the sum of the queued counts of players 1 to 7, one by one. -/
theorem tuneTotal_sum (b : Body) : b.tuneTotal = b.queuedCount 1 + b.queuedCount 2 + b.queuedCount 3 +
    b.queuedCount 4 + b.queuedCount 5 + b.queuedCount 6 + b.queuedCount 7 := by
  have total : b.tuneTotal = [b.queuedCount 1, b.queuedCount 2, b.queuedCount 3, b.queuedCount 4,
    b.queuedCount 5, b.queuedCount 6, b.queuedCount 7].sum := rfl
  rw [total]
  simp only [List.sum_cons, List.sum_nil]
  omega

theorem queueBytes_eq (b : Body) (first : Nat) : b.queueBytes first =
    [b.sched.admitted, b.sched.fired, b.sched.withdrawn, b.sched.discardedLate, b.sched.discardedBlocked,
      b.sched.discardedUnavailable].flatMap counter ++ u16 b.sched.queue.length ++
      ([0, 1, 2, 3, 4, 5, 6, 7].flatMap fun q => u16 (b.queuedCount q)) ++ u16 b.testCount ++
      u8 (b.queuedCount 1 + b.queuedCount 2 + b.queuedCount 3 + b.queuedCount 4 + b.queuedCount 5 +
        b.queuedCount 6 + b.queuedCount 7) ++
      b.sched.quotas.flatMap u8 ++ u16 (b.sched.horizon / 8) ++ u16 (b.sched.lateLimit / 8) ++
      ((b.sched.queue.drop first).take 4).flatMap Strike.bytes := by
  have players : List.range 8 = [0, 1, 2, 3, 4, 5, 6, 7] := rfl
  rw [← tuneTotal_sum, ← players]
  simp only [Body.queueBytes, Body.occupancy, List.flatMap_cons, List.flatMap_nil, List.append_nil,
    List.append_assoc]

theorem storeBytes_eq (b : Body) : b.storeBytes =
    u16 ((List.range 256).countP fun k => !b.slots.any fun x => x.blocks.contains k) ++
      u8 (b.slotsIn .empty) ++ u8 (b.slotsIn .writing) ++ u8 (b.slotsIn .ready) ++
      optional (fun k => u8 k ++ u16 ((b.slot k).length.getD 0) ++ u16 ((b.slot k).written.getD 0))
        b.writingSlot ++
      u8 (b.slots.countP fun y => y.state == .ready && decide (0 < y.users)) := by
  rw [List.countP_eq_length_filter]
  rfl

/-- R157: the launch instant of a trigger. -/
theorem triggerBytes_before (preRoll : Nat) : (fun g : Trigger => triggerBytes (g.before preRoll)) = fun g =>
    if preRoll ≤ g.ms then u16 g.day ++ u32 (g.ms - preRoll)
    else u16 ((g.day + 65535) % 65536) ++ u32 (g.ms + 86400000 - preRoll) := by
  funext g
  unfold Trigger.before
  split <;> rfl

/-- R175: an event of the FIFO. -/
theorem ConsoleEvent.bytes_eq : ConsoleEvent.bytes = fun x => (match x.kind with
    | .openSession => [0, 0, 0]
    | .key pitch force => u8 1 ++ (1 :: u8 pitch) ++ (1 :: u8 force)
    | .close => [2, 0, 0]) ++ u48 x.arrival := by
  funext x
  unfold ConsoleEvent.bytes
  cases x.kind <;> rfl

theorem Line.bytes_eq (l : Line) : l.bytes = match l with
    | .idle => [0, 0]
    | .actuate bell _ _ => [1, 1] ++ u8 bell
    | .poll board _ => [2, 1] ++ u8 board := by
  cases l <;> rfl

theorem Board.bytes_eq : Board.bytes = fun x =>
    yesNo x.online ++ u8 x.missedRun ++ u8 x.replyRun ++ [x.faults] ++
      [x.validReplies, x.noReply, x.badReply, x.reports, x.unplacedReports, x.overflow,
        x.wentOffline].flatMap counter := by
  funext x
  simp only [append_counters, append_no_counters]
  rfl

theorem statusBytes_eq (u : Bus) : u.statusBytes =
    u16 u.allowance ++ yesNo u.access ++ u.line.bytes ++ u8 u.consecutive ++ u8 u.pointer ++
      setBytes 1 (fun n => n != 0 && u.waitingPoll.getD (n - 1) false) ++ u8 u.sendList.length ++
      [u.actuatesSent, u.pollsSent, u.pollsOvertaken, u.cancelledAccess, u.cancelledOffline,
        u.cancelledUnavailable, u.noise].flatMap counter := by
  simp only [append_counters, append_no_counters]
  rfl

theorem identityBytes_eq (s : State) : s.identityBytes =
    u8 124 ++ u16 22080 ++ u8 s.body.port.boards ++ yesNo s.body.port.load ++
      u8 (if s.body.port.loading then 0 else 1) ++ u8 s.body.port.header.code ++
      (s.body.port.sections.flatMap fun r => u8 r.1.code ++ u8 r.2) ++ u8 s.body.port.lastCause.code ++
      [s.body.port.warmResets].flatMap counter ++ u48 s.time.runTime ++
      [s.body.port.requests, s.body.port.badFrames, s.body.port.discarded].flatMap counter := by
  simp only [State.identityBytes, State.now, List.flatMap_cons, List.flatMap_nil, List.append_nil,
    List.append_assoc]

theorem conBytes_eq (c : Console) : c.bytes =
    u8 c.session.code ++ optional (fun x => u8 x.code) c.closeCause ++
      optional u48 c.openInstant ++ optional (fun x => u8 x.sessionCode) c.lastOutcome ++
      optional u48 c.linkDeadline ++ u8 c.fifo.length ++ yesNo c.hold ++ yesNo c.inFlight ++
      (c.fifo.take 8).flatMap ConsoleEvent.bytes ++
      setBytes 12 (fun i => c.lamps.getD i .lost == .held) ++ setBytes 12 c.lampOwed ++
      yesNo c.stateOwed ++ yesNo c.refusedOwed ++ c.settings.bytes ++
      [c.events, c.malformed, c.overrun, c.ignoredKey, c.openRefused, c.linkLost,
        c.sessions].flatMap counter := by
  simp only [append_counters, append_no_counters]
  rfl

end Items

end Sys2Proof.Machine
end


section
/-! SUPPORT. READ-PLAYER and READ-ENTRY, item by item (R100, R123, R157). -/

namespace Sys2Proof.Machine

set_option Elab.async false

/-! ### READ-PLAYER -/

section Players

variable (f : Option Performance)

/-- R123: an item of a performance, absent with it. -/
abbrev perfItem {α : Type} (f : Option Performance) (enc : α → List Byte) (get : Performance → Option α) :
    List Byte := optional enc (f.bind get)

theorem pieceBytes_eq : Performance.pieceBytes f =
    perfItem f u8 (fun f => f.origin.code) ++ perfItem f u8 (fun f => f.mode.code) ++ perfItem f u8 (·.slot) ++
      perfItem f u8 (fun f => f.map.map (·.code)) ++ perfItem f s8 (fun f => f.transposition) ++
      perfItem f s8 (fun f => f.forceOffset) ++ perfItem f u8 (·.tickPeriod) ++
      perfItem f u8 (fun f => f.toll.map (·.bell)) ++ perfItem f u8 (fun f => f.toll.map (·.strokes)) ++
      perfItem f u16 (fun f => f.toll.map (·.interval)) ++ perfItem f u8 (fun f => f.toll.map (·.force)) := by
  cases f <;> rfl

theorem positionBytes_eq : Performance.positionBytes f =
    perfItem f u32 (fun f => f.passNumber.toNat) ++ perfItem f u8 (fun f => f.passesRemaining) ++
      perfItem f u16 (fun f => f.recordIndex) ++ perfItem f u32 (fun f => f.tickPosition) ++
      perfItem f u8 (fun f => f.strokeIndex) ++ perfItem f u48 (·.anchor) ++ perfItem f u48 (·.nextSounding) := by
  cases f <;> rfl

theorem settingBytes_eq : Performance.settingBytes f =
    perfItem f u8 (fun f => f.claimKind.code) ++ perfItem f u8 (fun f => f.priority) ++
      perfItem f yesNo (fun f => f.preemptive) ++ perfItem f u16 (·.waitLimit) ++
      perfItem f u8 (fun f => f.policy.code) ++ perfItem f u16 (fun f => f.slack) := by
  cases f <;> rfl

/-- R100: an item of a claim, absent with it. -/
abbrev claimItem {α : Type} (c : Option ClaimBody) (enc : α → List Byte) (get : ClaimBody → Option α) :
    List Byte := optional enc (c.bind get)

theorem claimRecordBytes_eq (r : ClaimRecord) : r.bytes =
    claimItem r.body (fun l : List Nat => setBytes 7 l.contains) (fun k => some k.bells) ++
      claimItem r.body u8 (fun k => k.kind.code) ++ claimItem r.body u8 (fun k => k.priority) ++
      claimItem r.body yesNo (fun k => k.preemptive) ++ claimItem r.body u16 (·.waitLimit) ++
      optional u48 r.deadline ++ optional u48 r.claimInstant ++ optional u48 r.grantInstant ++
      u8 r.state.code := by
  obtain ⟨body, deadline, made, granted, state⟩ := r
  cases body <;> rfl

theorem quotaItem_eq (b : Body) (p : Nat) : optional u8 (if p = 0 then none else some (b.quota p)) =
    if p = 0 then [0] else 1 :: u8 (b.quota p) := by
  split <;> rfl

/-- The items of an answer, grouped. -/
theorem player_items (a b c d n f g h q i k o r u v l w : List Byte) :
    a ++ b ++ c ++ d ++ n ++ f ++ g ++ h ++ q ++ i ++ k ++ o ++ (r ++ u ++ v ++ l ++ w) =
      a ++ b ++ c ++ (d ++ n) ++ (f ++ g ++ h) ++ (q ++ i) ++ k ++ o ++ r ++ u ++ v ++ l ++ w := by
  simp only [List.append_assoc]

theorem eight_counters (xs : List Byte) (a b c d e f g h : Counter) :
    xs ++ counter a ++ counter b ++ counter c ++ counter d ++ counter e ++ counter f ++ counter g ++ counter h =
      xs ++ [a, b, c, d, e, f, g, h].flatMap counter := by
  simp only [append_counters, append_no_counters]

theorem playerBytes_eq (b : Body) (p : Nat) :
    let x := b.player p
    b.playerBytes p =
      (u8 x.state.code ++ u8 x.generation.code ++ optional (fun r => u8 r.code) x.stallReason ++
        optional u48 x.wake) ++
      Performance.pieceBytes x.perf ++ Performance.positionBytes x.perf ++
      (Performance.settingBytes x.perf ++ yesNo x.noticeOnEnd) ++
      (yesNo x.finish ++ yesNo x.lateStart ++ yesNo x.lost) ++
      (u16 (b.queuedCount p) ++ (if p = 0 then [0] else 1 :: u8 (b.quota p))) ++
      [x.recordsRead, x.admitted, x.deferred, x.muted, x.refusedRecovery, x.refusedLate,
        x.refusedUnavailable, x.refusedFull].flatMap counter ++
      optional (fun f => u8 f.playerCode) x.lastOutcome ++
      (b.claim p).bytes ++ setBytes 7 (fun i => decide (i < 56) && b.holder i == some p) ++
      setBytes 7 (fun i => decide (i < 56) && (b.waitingOn i).contains p) ++
      (u8 b.claims.rotation.length ++ b.claims.rotation.flatMap u8) ++
      b.claims.holders.flatMap (fun x => u8 (x.getD 255)) := by
  intro x
  have held := setBytes_filter 7 fun i => b.holder i == some p
  have waited := setBytes_filter 7 fun i => (b.waitingOn i).contains p
  rw [← held, ← waited, ← bellOrNone_eq, ← quotaItem_eq, ← player_items]
  unfold Body.playerBytes Body.claimBytes
  dsimp only
  rw [eight_counters]
  rfl

end Players

/-! ### READ-ENTRY -/

section Entries

/-- The items of an answer, grouped. -/
theorem entry_items (y e k m n : List Byte) (r1 r2 r3 r4 r5 r6 r7 r8
    p1 p2 p3 p4 p5 p6 p7 p8 p9 p10 p11 p12 p13 p14 p15 p16 : List Byte) :
    y ++ e ++ k ++ (r1 ++ r2 ++ r3 ++ r4 ++ r5 ++ r6 ++ r7 ++ r8) ++ m ++
      (p1 ++ p2 ++ p3 ++ p4 ++ p5 ++ p6 ++ p7 ++ p8 ++
        p9 ++ p10 ++ p11 ++ p12 ++ p13 ++ p14 ++ p15 ++ p16) ++ n =
    y ++ (e ++ k ++ r1 ++ r2 ++ r3 ++ r4 ++ r5 ++ r6 ++ r7 ++ r8 ++ m ++
      p1 ++ p2 ++ p3 ++ p4 ++ p5 ++ p6 ++ p7 ++ p8 ++ p9 ++ p10 ++ p11 ++ p12 ++
      p13 ++ p14 ++ p15 ++ p16 ++ n) := by
  simp only [List.append_assoc]

/-- R157: an item of the fields, absent with them. -/
abbrev fieldItem {α : Type} (f : Option EntryFields) (enc : α → List Byte) (get : EntryFields → α) : List Byte :=
  optional enc (f.map get)

theorem recurrenceBytes_eq (f : Option EntryFields) : Recurrence.bytes (f.map (·.recurrence)) =
    fieldItem f u8 (fun f => f.recurrence.kind.code) ++ fieldItem f u16 (fun f => f.recurrence.day) ++
      fieldItem f u8 (fun f => f.recurrence.mask) ++ fieldItem f u8 (fun f => f.recurrence.hour) ++
      fieldItem f u8 (fun f => f.recurrence.minute) ++ fieldItem f u8 (fun f => f.recurrence.second) ++
      fieldItem f u8 (fun f => f.recurrence.firstHour) ++ fieldItem f u8 (fun f => f.recurrence.lastHour) := by
  cases f <;> rfl

theorem perfFieldsBytes_eq (f : Option EntryFields) : PerfFields.bytes (f.map (·.perf)) =
    fieldItem f u8 (fun f => f.perf.slot) ++
      fieldItem f u8 (fun f => f.perf.map.code) ++ fieldItem f s8 (fun f => f.perf.transposition) ++
      fieldItem f (fun f => u8 (f.tempoM.getD 0) ++ u8 f.tempoN) (fun f => f.perf) ++
      fieldItem f u8 (fun f => f.perf.repeatCount) ++ fieldItem f s8 (fun f => f.perf.forceOffset) ++
      fieldItem f u8 (fun f => f.perf.tollBell) ++ fieldItem f u8 (fun f => f.perf.strokes.getD 0) ++
      fieldItem f u16 (fun f => f.perf.interval) ++ fieldItem f u8 (fun f => f.perf.tollForce) ++
      fieldItem f u8 (fun f => f.perf.priority) ++ fieldItem f yesNo (fun f => f.perf.preemptive) ++
      fieldItem f u8 (fun f => f.perf.claimKind.code) ++ fieldItem f u16 (fun f => f.perf.waitLimit) ++
      fieldItem f u8 (fun f => f.perf.policy.code) ++ fieldItem f u16 (fun f => f.perf.slack) := by
  cases f <;> rfl

theorem entryBytes_eq (x : Entry) (preRoll : Nat) : x.bytes preRoll =
    yesNo x.fields.isSome ++
      (fieldItem x.fields yesNo (fun _ => x.enabled) ++ fieldItem x.fields u8 (fun f => f.kind.code) ++
        fieldItem x.fields u8 (fun f => f.recurrence.kind.code) ++
        fieldItem x.fields u16 (fun f => f.recurrence.day) ++ fieldItem x.fields u8 (fun f => f.recurrence.mask) ++
        fieldItem x.fields u8 (fun f => f.recurrence.hour) ++ fieldItem x.fields u8 (fun f => f.recurrence.minute) ++
        fieldItem x.fields u8 (fun f => f.recurrence.second) ++
        fieldItem x.fields u8 (fun f => f.recurrence.firstHour) ++
        fieldItem x.fields u8 (fun f => f.recurrence.lastHour) ++ fieldItem x.fields u8 (fun f => f.player.getD 0) ++
        fieldItem x.fields u8 (fun f => f.perf.slot) ++
        fieldItem x.fields u8 (fun f => f.perf.map.code) ++ fieldItem x.fields s8 (fun f => f.perf.transposition) ++
        fieldItem x.fields (fun f => u8 (f.tempoM.getD 0) ++ u8 f.tempoN) (fun f => f.perf) ++
        fieldItem x.fields u8 (fun f => f.perf.repeatCount) ++ fieldItem x.fields s8 (fun f => f.perf.forceOffset) ++
        fieldItem x.fields u8 (fun f => f.perf.tollBell) ++ fieldItem x.fields u8 (fun f => f.perf.strokes.getD 0) ++
        fieldItem x.fields u16 (fun f => f.perf.interval) ++ fieldItem x.fields u8 (fun f => f.perf.tollForce) ++
        fieldItem x.fields u8 (fun f => f.perf.priority) ++ fieldItem x.fields yesNo (fun f => f.perf.preemptive) ++
        fieldItem x.fields u8 (fun f => f.perf.claimKind.code) ++
        fieldItem x.fields u16 (fun f => f.perf.waitLimit) ++
        fieldItem x.fields u8 (fun f => f.perf.policy.code) ++ fieldItem x.fields u16 (fun f => f.perf.slack) ++
        fieldItem x.fields yesNo (fun f => f.notice)) ++
      optional triggerBytes x.next ++ optional triggerBytes x.lastFired ++ optional u8 x.active ++
      optional (fun y => u8 y.entryCode) x.lastOutcome ++
      [x.launched, x.missed, x.overlap, x.refused].flatMap counter ++
      optional (fun g => triggerBytes (g.before preRoll)) x.next := by
  simp only [append_counters, append_no_counters]
  rw [← entry_items]
  unfold Entry.bytes
  dsimp only
  rw [recurrenceBytes_eq, perfFieldsBytes_eq]

end Entries

end Sys2Proof.Machine
end


section
/-! SUPPORT. The reads (R16, R31, R78, R100, R123, R134, R135, R141, R157, R175, R187, R194, R200). -/

namespace Sys2Proof.Machine

set_option Elab.async false

/-! ### The sections of READ-BUS -/

theorem byteAt_second {section_ first : Nat} (low : first ≤ 55) : byteAt (u8 section_ ++ u8 first) 1 = first := by
  simp [byteAt, u8]
  omega

theorem parseReadBus_orders {first : Nat} (low : first ≤ 55) :
    parseReadBus (u8 1 ++ u8 first) = some (.orders first) := by
  have second := byteAt_second (section_ := 1) low
  rw [parseReadBus_iff, second]
  exact .inr ⟨rfl, low, .inl ⟨rfl, rfl⟩⟩

theorem parseReadBus_hammers {first : Nat} (low : first ≤ 55) :
    parseReadBus (u8 2 ++ u8 first) = some (.hammers first) := by
  have second := byteAt_second (section_ := 2) low
  rw [parseReadBus_iff, second]
  exact .inr ⟨rfl, low, .inr ⟨rfl, rfl⟩⟩

/-- Settles O33, by the items that each read's answer is made of. -/
theorem readsAnswerAndChangeNothing : Obligations.ReadsAnswerAndChangeNothing := by
  refine ⟨fun n => ⟨rfl, rfl, rfl, rfl⟩, fun i => ⟨rfl, rfl⟩, ⟨rfl, rfl⟩, fun α enc => ⟨rfl, fun x => rfl⟩,
    fun k has => ⟨setBytes_length k has, fun n => setBytes_bit has⟩,
    ⟨rfl, rfl, rfl, rfl, rfl, rfl, rfl, rfl, rfl, rfl, rfl, rfl, rfl⟩,
    ⟨rfl, rfl, fun n => rfl, rfl, rfl, rfl, rfl, rfl, rfl⟩, ⟨rfl, rfl, rfl, rfl, rfl, rfl, rfl, rfl, rfl⟩,
    fun s p heard => ?_⟩
  have nothing (h : p = []) : parseNothing p = some () := h ▸ parseNothing_empty
  have number (n bound : Nat) (h : p = u8 n) (low : n ≤ bound) (byte : bound ≤ 255) : parseByte bound p = some n :=
    h ▸ parseByte_u8 low byte
  refine ⟨fun h => exec_read (exec_readClock p s) heard (nothing h) ?_,
    fun n h low => exec_read (exec_readBell p s) heard (number n 55 h low (by decide)) ?_,
    fun n h low => exec_read (exec_readQueue p s) heard (number n 255 h low (by decide)) ?_,
    fun n h low => exec_read (exec_readPlayer p s) heard (number n 7 h low (by decide)) ?_,
    fun n h low => exec_read (exec_readTuneInfo p s) heard (number n 63 h low (by decide)) ?_,
    fun h => exec_read (exec_readStore p s) heard (nothing h) ?_,
    fun m first count read => exec_read (exec_readMap p s) heard read ?_,
    fun n h low => exec_read (exec_readEntry p s) heard (number n 47 h low (by decide)) ?_,
    fun h => exec_read (exec_readConsole p s) heard (nothing h) ?_,
    fun h => exec_read (exec_readBus p s) heard (x := .status) ?_ ?_,
    fun first low h => exec_read (exec_readBus p s) heard (x := .orders first) ?_ ?_,
    fun first low h => exec_read (exec_readBus p s) heard (x := .hammers first) ?_ ?_,
    fun h => exec_read (exec_readBus p s) heard (x := .boards) ?_ ?_,
    fun h => exec_read (exec_readNotices p s) heard (nothing h) rfl,
    fun h => exec_read (exec_identify p s) heard (nothing h) (identityBytes_eq _)⟩
  · exact clockBytes_eq _
  · refine (bellBytes_eq _ n).trans ?_
    rw [placementBytes_eq] <;> rfl
  · exact queueBytes_eq _ n
  · refine (playerBytes_eq _ n).trans ?_
    rw [pieceBytes_eq, positionBytes_eq, settingBytes_eq, claimRecordBytes_eq] <;> rfl
  · rfl
  · exact storeBytes_eq _
  · rw [bellOrNone_eq]
    cases m <;> rfl
  · refine (entryBytes_eq _ _).trans ?_
    rw [triggerBytes_before] <;> rfl
  · refine (conBytes_eq _).trans ?_
    rw [ConsoleEvent.bytes_eq] <;> rfl
  · rw [h]
    decide
  · refine (statusBytes_eq _).trans ?_
    rw [Line.bytes_eq] <;> rfl
  · exact h ▸ parseReadBus_orders low
  · rfl
  · exact h ▸ parseReadBus_hammers low
  · rfl
  · rw [h]
    decide
  · show s.body.bus.boards.flatMap Board.bytes = _
    rw [Board.bytes_eq] <;> rfl

end Sys2Proof.Machine
end


section
/-! SUPPORT. The sections of the configuration memory, item by item (R35, R136, R142, R159, R197, R210). -/

namespace Sys2Proof.Machine

set_option Elab.async false

/-! ### A section read -/

section Recording

variable {s : State} {k length : Nat} {bytes : List Byte}

theorem awaitedSection_eq (loading : s.body.port.loading = true) (good : s.body.port.header = .good)
    (next : s.body.port.nextSection = k) (bound : k < 4) : s.awaitedSection = some k := by
  simp [State.awaitedSection, loading, good, next, bound]

/-- R197, R198: what a section read comes to; with the last one the load ends. -/
theorem exec_configSectionRead (free : s.rst.held = false) (awaited : s.awaitedSection = some k)
    (read : Option (List Byte)) :
    exec (.configSectionRead read) s =
      .next (if k = 3 then (s.sectionRead k read).finish.loadEnd else (s.sectionRead k read).finish) := by
  unfold exec
  refine (State.running_free free _).trans ?_
  simp only [awaited]

theorem sectionRead_defaults {read : Option (List Byte)} (bad : ∀ bytes, read = some bytes →
      sectionGood (s.body.port.directory.getD k (0, 0)).2 bytes = false) :
    s.sectionRead k read = s.recordSection k .defaults 0 := by
  have none : read.filter (sectionGood (s.body.port.directory.getD k (0, 0)).2) = none :=
    Option.filter_eq_none_iff.2 fun bytes same => Bool.eq_false_iff.1 (bad bytes same)
  simp only [State.sectionRead, none]

theorem sectionRead_applied (good : sectionGood (s.body.port.directory.getD k (0, 0)).2 bytes = true) :
    let r := s.applySection k (bytes.take ((s.body.port.directory.getD k (0, 0)).2 - 2))
    s.sectionRead k (some bytes) =
      r.1.recordSection k (if r.2 = 0 then .loaded else .loadedWithErrors) r.2 := by
  simp only [State.sectionRead, Option.filter_some, good, if_true]

theorem recordSection_errors {result : SectionResult} {n : Nat} (errors : result ≠ .loaded) :
    s.recordSection k result n = State.noticed (s.setPort { s.body.port with
      sections := s.body.port.sections.set k (result, n), nextSection := k + 1 }) .configError :=
  if_neg errors

theorem recordSection_result {n : Nat} :
    s.recordSection k (if n = 0 then .loaded else .loadedWithErrors) n =
      if n = 0 then s.setPort { s.body.port with
        sections := s.body.port.sections.set k (.loaded, 0), nextSection := k + 1 }
      else State.noticed (s.setPort { s.body.port with
        sections := s.body.port.sections.set k (.loadedWithErrors, n), nextSection := k + 1 }) .configError := by
  by_cases none : n = 0
  · subst none
    rfl
  · rw [if_neg none, if_neg none, recordSection_errors (by decide)]

theorem sectionGood_iff : sectionGood length bytes = true ↔ bytes.length = length ∧ 2 ≤ length ∧
    (crc16 (bytes.take (length - 2))).toNat = wordAt bytes (length - 2) := by
  simp only [sectionGood, Bool.and_eq_true, beq_iff_eq, decide_eq_true_eq, and_assoc]

end Recording

/-! ### BELLS -/

section Bells

variable {s : State} {i : Nat} {item : Option (Bool × Calibration)} {y : Bool} {c : Calibration}

theorem readBellRecord_iff {bytes : List Byte} : readBellRecord bytes = some (y, c) ↔
    readYesNo (byteAt bytes 0) = some y ∧ parseCalibration bytes 1 = some c := by
  simp only [readBellRecord, Option.bind_eq_some_iff, Option.map_eq_some_iff, Prod.mk.injEq]
  constructor
  · rintro ⟨_, readYes, _, readCalibration, rfl, rfl⟩
    exact ⟨readYes, readCalibration⟩
  · rintro ⟨readYes, readCalibration⟩
    exact ⟨_, readYes, _, readCalibration, rfl, rfl⟩

/-- R35: the pair is held by a present bell of a lower number. -/
abbrev State.pairTaken (s : State) (i : Nat) (place : Option (Nat × Nat)) : Prop :=
  (s.bell i).present = true ∧ place ≠ none ∧
    ∃ j < i, (s.bell j).present = true ∧ (s.bell j).placement = place

/-- R35: a present bell's board is within the strap count. -/
abbrev State.boardFits (s : State) (i : Nat) (c : Calibration) : Prop :=
  (s.bell i).present = true → ∀ x ∈ c.placement, x.1 ≤ s.body.port.boards

theorem pairTaken_iff (bound : i < 56) {place : Option (Nat × Nat)} :
    ((s.bell i).present && s.pairHeld (fun j => decide (j < i)) place) = true ↔ s.pairTaken i place := by
  rw [Bool.and_eq_true, State.pairHeld_iff]
  refine and_congr_right fun _ => and_congr_right fun _ => exists_congr fun j => ?_
  rw [decide_eq_true_eq]
  constructor
  · rintro ⟨_, lower, held⟩
    exact ⟨lower, held⟩
  · rintro ⟨lower, held⟩
    exact ⟨by omega, lower, held⟩

theorem boardFits_iff : boardWithin s.body.port.boards (s.bell i).present c = true ↔ s.boardFits i c := by
  unfold boardWithin State.boardFits
  cases (s.bell i).present
  · simp
  · cases c.placement <;> simp

/-- R35: the record that an item within the board count gives. -/
theorem loadedRecord_usable (bound : i < 56) (read : item = some (y, c)) (fits : s.boardFits i c) :
    s.loadedRecord i item =
      if s.pairTaken i c.placement then ((false, defaultCalibration none), true) else ((y, c), false) := by
  have usable : item.filter (fun x => boardWithin s.body.port.boards (s.bell i).present x.2) = some (y, c) := by
    rw [read, Option.filter_some, if_pos (boardFits_iff.2 fits)]
  unfold State.loadedRecord
  dsimp only
  rw [usable]
  exact if_congr (pairTaken_iff bound) rfl rfl

/-- R35: an item that is not usable gives the default record, at the bell's own place where that is free. -/
theorem loadedRecord_default (bound : i < 56) (unusable : ∀ y c, item = some (y, c) → ¬ s.boardFits i c) :
    s.loadedRecord i item =
      if s.pairTaken i (some (i / 8 + 1, i % 8)) then ((false, defaultCalibration none), true)
      else ((false, defaultCalibration (some (i / 8 + 1, i % 8))), true) := by
  have none : item.filter (fun x => boardWithin s.body.port.boards (s.bell i).present x.2) = none :=
    Option.filter_eq_none_iff.2 fun x read within => unusable x.1 x.2 read (boardFits_iff.1 within)
  unfold State.loadedRecord
  dsimp only
  rw [none]
  exact if_congr (pairTaken_iff bound) rfl rfl

/-- R35, R55: the bell that a calibration is loaded into. -/
def State.loadedBell (s : State) (i : Nat) (y : Bool) (c : Calibration) : Bell :=
  { (s.bell i) with
    placement := c.placement, floor := c.floor, ceiling := c.ceiling, depth := c.depth,
    soft := { values := List.replicate 8 c.softSeed, position := 0 },
    loud := { values := List.replicate 8 c.loudSeed, position := 0 },
    window := c.window, mask := c.mask, recovery := c.recovery, p1 := c.p1, p15 := c.p15,
    missLimit := c.missLimit, calibrated := y,
    boardOnline := (s.bell i).present && c.placement.any fun x => (s.board x.1).online }

theorem loadBell_eq {default : Bool} (record : s.loadedRecord i item = ((y, c), default)) :
    let u := s.writeBell i (s.loadedBell i y c)
    s.loadBell i item =
      (if (s.bell i).present = true ∧ y = true ∧ 0 < c.recovery then u.setHammer i
         { state := .settle, band := none, send := none, expiry := none, contact := none,
           presumed := false, missBefore := none, timerEnd := some (s.now + c.recovery) }
       else u, if default then 1 else 0) := by
  intro u
  have settles : ((s.bell i).present && y && decide (0 < c.recovery)) = true ↔
      (s.bell i).present = true ∧ y = true ∧ 0 < c.recovery := by
    simp only [Bool.and_eq_true, decide_eq_true_eq, and_assoc]
  have now : u.now = s.now := by
    rw [State.now, State.writeBell_time]
    rfl
  unfold State.loadBell
  rw [record]
  dsimp only
  rw [Body.placedOnline_eq]
  rw [← now]
  exact congrArg (·, if default then 1 else 0) (if_congr settles rfl rfl)

end Bells

/-! ### MAPS -/

section Maps

variable {s : State} {items : List Byte}

/-- R142: an item of the section. -/
def mapItem (items : List Byte) (k : Nat) : Option MapEntry :=
  if 2 * k + 2 ≤ items.length then readMapEntry (byteAt items (2 * k)) (byteAt items (2 * k + 1)) else none

theorem loadMapEntry_eq (k : Nat) : loadMapEntry items k =
    ((mapItem items k).getD { primary := none, alternate := none }, if (mapItem items k).isNone then 1 else 0) := by
  unfold loadMapEntry
  change (match mapItem items k with
    | some x => (x, 0)
    | none => ({ primary := none, alternate := none }, 1)) = _
  cases mapItem items k <;> rfl

/-- Counting is summing ones. -/
theorem sum_ones {α : Type} (p : α → Bool) (l : List α) : (l.map fun x => if p x then 1 else 0).sum = l.countP p := by
  induction l with
  | nil => rfl
  | cons x rest ih =>
    rw [List.map_cons, List.sum_cons, ih, List.countP_cons, Nat.add_comm]

theorem loadMaps_eq : s.loadMaps items =
    ({ s with
        mapA := (List.range 96).map fun k => (mapItem items k).getD { primary := none, alternate := none }
        mapB := (List.range 96).map fun k =>
          (mapItem items (96 + k)).getD { primary := none, alternate := none } },
     (List.range 192).countP fun k => (mapItem items k).isNone) := by
  have first : (List.range 192).take 96 = List.range 96 := by rw [List.take_range]; rfl
  have second : (List.range 192).drop 96 = (List.range 96).map (96 + ·) := by decide
  unfold State.loadMaps
  dsimp only
  rw [← List.map_take, ← List.map_drop, first, second]
  simp only [List.map_map, Function.comp_def, loadMapEntry_eq, sum_ones]

end Maps

/-! ### CALENDAR -/

section Calendar

variable {n : Nat} {x : Byte} {rest : List Byte}

theorem readEntries_written (written : x ≠ 0) : readEntries (n + 1) (x :: rest) =
    if rest.length < 33 then (Entry.cleared, 1) :: readEntries n []
    else match parseEntryFields (rest.take 33) 0 with
      | some (enabled, f) =>
        ({ Entry.cleared with fields := some f, enabled := enabled }, 0) :: readEntries n (rest.drop 33)
      | none => (Entry.cleared, 1) :: readEntries n (rest.drop 33) := by
  rw [readEntries, if_neg written] <;> rfl

end Calendar

/-! ### TUNES -/

section Tunes

variable {s : State} {n : Nat} {bytes : List Byte} {named : List Nat}

/-- R136: the slot that the first nine bytes name. -/
def slotNamed (bytes : List Byte) : OpenTune :=
  { slot := byteAt bytes 0, length := wordAt bytes 1, m := byteAt bytes 3, n := byteAt bytes 4,
    gap := wordAt bytes 5 }

/-- R136: the records that follow them. -/
def recordsNamed (bytes : List Byte) : List (List Byte) := records3 ((bytes.drop 9).take (3 * wordAt bytes 1))

theorem slot_short_iff : bytes.length < 9 ∨ (bytes.drop 9).length < 3 * wordAt bytes 1 ↔
    bytes.length < 9 + 3 * wordAt bytes 1 := by
  rw [List.length_drop]
  omega

theorem loadSlots_short (short : bytes.length < 9 + 3 * wordAt bytes 1) :
    s.loadSlots (n + 1) bytes named = (s, n + 1) :=
  if_pos (slot_short_iff.2 short)

theorem loadSlots_whole (whole : 9 + 3 * wordAt bytes 1 ≤ bytes.length) :
    s.loadSlots (n + 1) bytes named =
      let ok := s.body.slotLoads (slotNamed bytes) named (wordAt bytes 7) (recordsNamed bytes)
      let r := State.loadSlots n ((bytes.drop 9).drop (3 * wordAt bytes 1)) (byteAt bytes 0 :: named)
        (if ok then s.loadSlot (slotNamed bytes) (recordsNamed bytes) (wordAt bytes 7) else s)
      (r.1, r.2 + if ok then 0 else 1) :=
  if_neg (mt slot_short_iff.1 (Nat.not_lt.2 whole))

theorem slotLoads_iff {b : Body} {o : OpenTune} {crc : Nat} {records : List (List Byte)} :
    b.slotLoads o named crc records = true ↔
      o.slot ≤ 63 ∧ 1 ≤ o.length ∧ o.length ≤ 4096 ∧ 1 ≤ o.m ∧ o.m ≤ 31 ∧ o.n ≤ 7 ∧ o.gap ≤ 4095 ∧
      o.slot ∉ named ∧ (o.length + 63) / 64 ≤ b.freeBlocks.length ∧
      (∀ r ∈ records, byteAt r 0 % 128 ≤ 95) ∧ (crc16 records.flatten).toNat = crc := by
  have fresh : (!named.contains o.slot) = true ↔ o.slot ∉ named := by simp
  have ok (r : List Byte) : recordOk r = true ↔ byteAt r 0 % 128 ≤ 95 := decide_eq_true_iff
  simp only [Body.slotLoads, OpenTune.inRange, Bool.and_eq_true, decide_eq_true_eq, List.all_eq_true, fresh, ok,
    and_assoc]
  rfl

/-- R136: the slot that a load leaves READY. -/
theorem loadSlot_eq {o : OpenTune} {crc : Nat} {records : List (List Byte)} (slots : s.body.slots.length = 64)
    (bound : o.slot ≤ 63) :
    let blocks := s.body.freeBlocks.take ((o.length + 63) / 64)
    s.loadSlot o records crc =
      { s with
        memory := s.memory.writeRecords blocks 0 records
        body := s.body.setSlot o.slot
          { state := .ready, length := some o.length, tempo := some (o.m, o.n), passGap := some o.gap,
            blocks := blocks, written := none, pitches := some (pitchSet records),
            ticks := some (totalTicks records), crc := some (BitVec.ofNat 16 crc), users := 0 } } := by
  intro blocks
  have allocated : (s.body.allocate o).slot o.slot =
      { state := .writing, length := some o.length, tempo := some (o.m, o.n), passGap := some o.gap,
        blocks := blocks, written := some 0, pitches := none, ticks := none, crc := none, users := 0 } :=
    Body.slot_setSlot_same _ (by omega)
  have again (x : Slot) : (s.body.allocate o).setSlot o.slot x = s.body.setSlot o.slot x := by
    unfold Body.allocate Body.setSlot
    rw [List.set_set]
  unfold State.loadSlot
  dsimp only
  rw [allocated, again]
  rfl

end Tunes

/-- Settles O21, by the section's check, and by what each of its items loads. -/
theorem configSectionIsRecorded : Obligations.ConfigSectionIsRecorded := by
  refine ⟨fun s k free loading good next bound => ⟨fun read bad => ?_, fun bytes passes => ?_⟩,
    fun length bytes => sectionGood_iff, fun s items => rfl, fun bytes y c => readBellRecord_iff,
    fun s i item bound => ⟨fun y c read fits open_ => ?_, fun y c read fits taken => ?_,
      fun unusable => ⟨fun open_ => ?_, fun taken => ?_⟩⟩,
    fun s items => loadMaps_eq, fun s items => rfl,
    fun n x rest => ⟨rfl, rfl, rfl, fun written short => ?_, fun written long => ⟨fun unread => ?_,
      fun enabled f read => ?_⟩⟩,
    fun s k items last => ?_,
    fun s n bytes named => ⟨fun x y z rest => rfl, rfl, fun m blocks i x y z rest => ⟨rfl, rfl⟩, rfl,
      loadSlots_short, fun whole fails => ?_, fun whole passes slots => ?_⟩⟩
  · rw [exec_configSectionRead free (awaitedSection_eq loading good next bound), sectionRead_defaults bad,
      recordSection_errors (by decide)]
  · rw [exec_configSectionRead free (awaitedSection_eq loading good next bound), sectionRead_applied passes,
      recordSection_result]
  · exact loadBell_eq ((loadedRecord_usable bound read fits).trans (if_neg open_))
  · exact loadBell_eq ((loadedRecord_usable bound read fits).trans (if_pos taken))
  · exact loadBell_eq ((loadedRecord_default bound unusable).trans (if_neg open_))
  · exact loadBell_eq ((loadedRecord_default bound unusable).trans (if_pos taken))
  · rw [readEntries_written written, if_pos short]
  · rw [readEntries_written written, if_neg (Nat.not_lt.2 long), unread]
  · rw [readEntries_written written, if_neg (Nat.not_lt.2 long), read]
    rfl
  · obtain ⟨k, rfl⟩ : ∃ j, k = j + 3 := ⟨k - 3, by omega⟩
    rfl
  · have refused : s.body.slotLoads (slotNamed bytes) named (wordAt bytes 7) (recordsNamed bytes) = false :=
      Bool.eq_false_iff.2 (mt slotLoads_iff.1 fails)
    rw [loadSlots_whole whole, refused]
    rfl
  · have accepted : s.body.slotLoads (slotNamed bytes) named (wordAt bytes 7) (recordsNamed bytes) = true :=
      slotLoads_iff.2 passes
    rw [loadSlots_whole whole, accepted]
    dsimp only
    rw [if_pos rfl, loadSlot_eq slots passes.1]
    rfl

end Sys2Proof.Machine
end
